-- ==== Sys2Proof/Word.lean ====
section
/-! DEFINITION. The value types of the block (00_scope.md R9): unsigned integers of 8, 16 and 32 bits. -/

namespace Sys2Proof

/-- A byte, `u8` (R9). -/
abbrev U8 := BitVec 8

/-- `u16` (R9). -/
abbrev U16 := BitVec 16

/-- `u32` (R9). -/
abbrev U32 := BitVec 32

end Sys2Proof
end

