-- ==== Sys2Proof/Syntax.lean ====
section
/-! DEFINITION. What can be asked of the block: the two buses, the three agents, and one constructor for each of the
28 rows of spec/opcode_table.json, the nineteen operations of 30_encoding.md R96 and the nine frame kinds of R97; and
the form in which an agent presents it, a `Request` (log entries 1 and 2). -/

namespace Sys2Proof

/-- A bus number, 0 or 1 (`N_BUS` = 2, R7; a number outside is refusal F7, made by the decoder). -/
inductive Bus where
  | bus0
  | bus1
deriving DecidableEq, Repr, Inhabited

/-- The three agents that issue operations (20_memory.md R61, 60_exceptions.md R265). -/
inductive Agent where
  /-- The interrupt handler of bus `b`. -/
  | producer (b : Bus)
  /-- The Dispatch Task. -/
  | consumer
deriving DecidableEq, Repr, Inhabited

/-- The instructions of the block, one per row of the opcode table. -/
inductive Instr where
  /-- `CRC16 seed, data` (R112). -/
  | crc16 (seed : U16) (data : List U8)
  /-- `CRC8 seed, data` (R117). -/
  | crc8 (seed : U8) (data : List U8)
  /-- `AP.DEC b, byte` (R131). -/
  | apDec (b : Bus) (byte : U8)
  /-- `AP.RST b` (R148). -/
  | apRst (b : Bus)
  /-- `AP.ENC src, dst, typ, payload` (R150). -/
  | apEnc (src dst typ : U8) (payload : List U8)
  /-- `AP.MKPKT payload, dest, typ` (R152). -/
  | apMkpkt (payload : List U8) (dest typ : U8)
  /-- `AP.MKCMD cmd, dest, ack` (R153). -/
  | apMkcmd (cmd dest : U8) (ack : Bool)
  /-- `AP.MKACK dest` (R154). -/
  | apMkack (dest : U8)
  /-- `AP.MKNACK dest` (R155). -/
  | apMknack (dest : U8)
  /-- `RA.DEC frame` (R171). -/
  | raDec (frame : List U8)
  /-- `RA.ENC addr, value` (R175). -/
  | raEnc (addr : U8) (value : U32)
  /-- `RX.BYTE b, v` (R192). -/
  | rxByte (b : Bus) (v : U8)
  /-- `RX.EOF b` (R194, R195). -/
  | rxEof (b : Bus)
  /-- `SIG.WAIT` (R197). -/
  | sigWait
  /-- `RX.RD b, i` (R198). -/
  | rxRd (b : Bus) (i : U8)
  /-- `RX.REL b` (R199). -/
  | rxRel (b : Bus)
  /-- `RX.TAKE b` (R200). -/
  | rxTake (b : Bus)
  /-- `DSP.STEP` (R221). -/
  | dspStep
  /-- `DSP.SVC b` (R222). -/
  | dspSvc (b : Bus)
  /-- A frame of kind `AP.DATA` (TYPE 1, R81, R84) received on bus `b`, with the checksum it carries. -/
  | apData (b : Bus) (src dst : U8) (payload : List U8) (crc : U16)
  /-- A frame of kind `AP.DATA_ACK` (TYPE 2) received on bus `b`. -/
  | apDataAck (b : Bus) (src dst : U8) (payload : List U8) (crc : U16)
  /-- A frame of kind `AP.CMD` (TYPE 3) received on bus `b`. -/
  | apCmd (b : Bus) (src dst : U8) (payload : List U8) (crc : U16)
  /-- A frame of kind `AP.CMD_ACK` (TYPE 4) received on bus `b`. -/
  | apCmdAck (b : Bus) (src dst : U8) (payload : List U8) (crc : U16)
  /-- A frame of kind `AP.ACK` (TYPE 5) received on bus `b`. -/
  | apAck (b : Bus) (src dst : U8) (payload : List U8) (crc : U16)
  /-- A frame of kind `AP.NACK` (TYPE 6) received on bus `b`. -/
  | apNack (b : Bus) (src dst : U8) (payload : List U8) (crc : U16)
  /-- A read request `RA.READ` (R88) received on bus `b`, with the checksum it carries. -/
  | raRead (b : Bus) (addr crc : U8)
  /-- A write request `RA.WRITE` (R89) received on bus `b`, with the checksum it carries. -/
  | raWrite (b : Bus) (addr : U8) (value : U32) (crc : U8)
  /-- A read response `RA.RESP` (R89), which the block sends on bus `b`; its checksum is the one the block computes. -/
  | raResp (b : Bus) (addr : U8) (value : U32)
deriving DecidableEq, Repr

/-- Where an instruction is presented. The direction and the bus of a frame are no part of its bytes (R92, R95). -/
inductive Port where
  /-- The operation port: the first byte is the 6-bit code `uuuooo` of R96. -/
  | op
  /-- The wire of bus `b` toward the block. -/
  | frameIn (b : Bus)
  /-- The wire of bus `b` from the block. -/
  | frameOut (b : Bus)
deriving DecidableEq, Repr, Inhabited

/-- One instruction as it is presented: a port and the bytes on it, first byte first. -/
structure Request where
  port : Port
  bytes : List U8
deriving DecidableEq, Repr, Inhabited

end Sys2Proof
end

