-- ==== Sys2Proof/Config.lean ====
section
/-! DEFINITION. What an instance of the block fixes (the constants of 00_scope.md R7 and the parameters of R8), the values
that pass between the block and its collaborators, and the free values no document gives. -/

namespace Sys2Proof

/-! ## Fixed constants (R7) -/

/-- `AP_SOF`: the start marker of an Addressed Packet. -/
def apSof : U8 := 0x7E#8

/-- `AP_MAX_PAYLOAD`. -/
def apMaxPayload : Nat := 248

/-- `AP_HDR`: bytes before the payload. -/
def apHdr : Nat := 5

/-- `AP_MIN_FRAME`. -/
def apMinFrame : Nat := 7

/-- `AP_MAX_FRAME`. -/
def apMaxFrame : Nat := 255

/-- `RA_LEN_READ`. -/
def raLenRead : Nat := 2

/-- `RA_LEN_WRITE`. -/
def raLenWrite : Nat := 6

/-- `CRC16_SEED_FRAME`. -/
def crc16SeedFrame : U16 := 0x0000#16

/-- `CRC8_SEED_FRAME`. -/
def crc8SeedFrame : U8 := 0x00#8

/-! ## Values at the interfaces -/

/-- The packet that comes with READY (41_addressed_packet.md R143). -/
structure Packet where
  src : U8
  dst : U8
  len : U8
  typ : U8
  payload : List U8
  crc : U16
deriving DecidableEq, Repr, Inhabited

/-- A register operation: a READ carries no value, a WRITE carries one (42_register_access.md R174). -/
inductive RegOp where
  | read (addr : U8)
  | write (addr : U8) (value : U32)
deriving DecidableEq, Repr, Inhabited

/-- What `RegRead` answers (44_dispatch.md R224). -/
inductive ReadAnswer where
  | ok (value : U32)
  | notFound
deriving DecidableEq, Repr, Inhabited

/-- What `RegWrite` answers (44_dispatch.md R225). -/
inductive WriteAnswer where
  | ok
  | writeError
deriving DecidableEq, Repr, Inhabited

/-- The register table's answer to a register operation, the `r` of 44_dispatch.md R226. -/
inductive RegAnswer where
  | read (a : ReadAnswer)
  | write (a : WriteAnswer)
deriving DecidableEq, Repr, Inhabited

/-! ## Parameters (R8) -/

/-- `CODEC[b]`. -/
inductive Codec where
  | ap
  | ra
deriving DecidableEq, Repr, Inhabited

/-- `WRONG_ADDR_MODE` (90_conflicts.md C1). -/
inductive WrongAddrMode where
  | consume
  | immediate
deriving DecidableEq, Repr, Inhabited

/-- The parameters of R8, constant from reset on. `DISPATCH_TIMEOUT` has no field: the model is untimed and a time-out is
a free choice (60_exceptions.md R263; log entry 7). `apRegop` and `apResp` are the graphs of the functions `AP_REGOP` and
`AP_RESP`; a packet that is not listed is mapped to none, so the empty table is the default (log entry 6). -/
structure Params where
  nodeAddr : U8
  codec0 : Codec
  codec1 : Codec
  writeAck0 : Bool
  writeAck1 : Bool
  rxCap : U8
  crc16Reflect : Bool
  wrongAddrMode : WrongAddrMode
  apRegop : List (Packet × RegOp)
  apResp : List ((Packet × RegAnswer) × List U8)
deriving DecidableEq, Repr

/-- The parameters of the instance `State.reset` is the reset of: the defaults of R8 where it gives one. DESIGN CHOICE
(unsafe): `NODE_ADDR` and `CODEC` have no default; 0x01 is the address of the spec's examples, and the two buses carry one
codec each so that both exist (log entry 5). -/
def Params.default : Params where
  nodeAddr := 0x01#8
  codec0 := .ap
  codec1 := .ra
  writeAck0 := false
  writeAck1 := false
  rxCap := 255#8
  crc16Reflect := true
  wrongAddrMode := .consume
  apRegop := []
  apResp := []

/-! ## Free values

Nothing is known of these but their types. Each is applied to a counter of State (`env.drawn`), so that two draws are two
values, and is used only when the inputs State lists for the same purpose have run out (log entries 13, 14, 16). -/

/-- The register table's answer to `RegRead a` (R224: "answer anything, differently each time"). -/
opaque Config.freeReadAnswer : Nat → U8 → ReadAnswer

/-- The register table's answer to `RegWrite a v` (R225). -/
opaque Config.freeWriteAnswer : Nat → U8 → U32 → WriteAnswer

/-- Whether a wait with no signal bit set times out (93_implementation_defined.md ND1). -/
opaque Config.freeTimeout : Nat → Bool

/-- Whether the two services of one turn happen in ascending bus order (93_implementation_defined.md ND2). -/
opaque Config.freeAscending : Nat → Bool

end Sys2Proof
end

