-- ==== Sys2Proof/Machine/Bytes.lean ====
section
/-! DEFINITION. Byte order of the two multi-byte fields on the wire, both big-endian (20_memory.md R54). -/

namespace Sys2Proof.Machine

/-- Bits 15:8 of a 16-bit value, the byte sent first (R54, R85). -/
def hiByte (v : U16) : U8 := v.extractLsb' 8 8

/-- Bits 7:0 of a 16-bit value, the byte sent second. -/
def loByte (v : U16) : U8 := v.extractLsb' 0 8

/-- `{hi, lo}`: a 16-bit value from its two bytes (R85). -/
def half (hi lo : U8) : U16 := hi ++ lo

/-- The four bytes of a 32-bit value, bits 31:24 first (30_encoding.md R90). -/
def wordBytes (v : U32) : List U8 :=
  [v.extractLsb' 24 8, v.extractLsb' 16 8, v.extractLsb' 8 8, v.extractLsb' 0 8]

/-- `{b3, b2, b1, b0}`: a 32-bit value from its four bytes (R90). -/
def word (b3 b2 b1 b0 : U8) : U32 := b3 ++ b2 ++ b1 ++ b0

end Sys2Proof.Machine
end

