-- ==== Sys2Proof/Machine/CrcEngine.lean ====
section
/-! DEFINITION. The two CRC engines (40_crc.md): pure functions of a seed and a byte sequence (R110). The polynomial
numbers are those of R111, R113 and R116. -/

namespace Sys2Proof.Machine

/-- A step of one bit, eight times: the loop `k = 1..8` of R111, R113 and R116. -/
def eightTimes {α : Type} (f : α → α) (c : α) : α :=
  f (f (f (f (f (f (f (f c)))))))

/-- One shift of the reflected CRC-16: the bit shifted out is bit 0 (R111). -/
def crc16Bit (c : U16) : U16 :=
  if c.getLsbD 0 then (c >>> 1) ^^^ 0x8408#16 else c >>> 1

/-- `crc16_step` (R111): the normative, reflected byte step. -/
def crc16Step (c : U16) (b : U8) : U16 :=
  eightTimes crc16Bit (c ^^^ b.setWidth 16)

/-- One shift of the most-significant-bit-first CRC-16: the bit shifted out is bit 15 (R113). -/
def crc16BitMsb (c : U16) : U16 :=
  if c.getLsbD 15 then (c <<< 1) ^^^ 0x1021#16 else c <<< 1

/-- `crc16_step_msb` (R113): the byte step used when `CRC16_REFLECT` is false. -/
def crc16StepMsb (c : U16) (b : U8) : U16 :=
  eightTimes crc16BitMsb (c ^^^ (b.setWidth 16 <<< 8))

/-- The byte step the parameter `CRC16_REFLECT` selects (R112). -/
def crc16StepFor (reflect : Bool) : U16 → U8 → U16 :=
  if reflect then crc16Step else crc16StepMsb

/-- `CRC16(seed, data)` (R112). -/
def crc16 (reflect : Bool) (seed : U16) (data : List U8) : U16 :=
  data.foldl (crc16StepFor reflect) seed

/-- One shift of the CRC-8: the bit shifted out is bit 7 (R116). -/
def crc8Bit (c : U8) : U8 :=
  if c.getLsbD 7 then (c <<< 1) ^^^ 0x07#8 else c <<< 1

/-- `crc8_step` (R116). -/
def crc8Step (c b : U8) : U8 :=
  eightTimes crc8Bit (c ^^^ b)

/-- `CRC8(seed, data)` (R117). -/
def crc8 (seed : U8) (data : List U8) : U8 :=
  data.foldl crc8Step seed

end Sys2Proof.Machine
end

