-- ==== Sys2Proof/WellFormed.lean ====
section
/-! DEFINITION. Which instructions the operand columns of spec/opcode_table.json and 30_encoding.md R83 admit. What an
operation itself refuses (an over-long payload given to `AP.ENC`, an index beyond `flen`) is no part of it: those
operands are well formed and the meaning refuses them (R151, R198). -/

namespace Sys2Proof

/-- LEN counts 0 to 248 payload bytes (R81, R83). -/
abbrev payloadFits (payload : List U8) : Bool := decide (payload.length ≤ 248)

/-- `RA.DEC` takes a raw frame, which is never longer than 255 bytes (R171 with `RX_CAP` ≤ 255). -/
abbrev rawFrameFits (frame : List U8) : Bool := decide (frame.length ≤ 255)

/-- The well-formed instructions. -/
def WellFormed : Instr → Bool
  | .crc16 _ _ => true
  | .crc8 _ _ => true
  | .apDec _ _ => true
  | .apRst _ => true
  | .apEnc _ _ _ _ => true
  | .apMkpkt _ _ _ => true
  | .apMkcmd _ _ _ => true
  | .apMkack _ => true
  | .apMknack _ => true
  | .raDec frame => rawFrameFits frame
  | .raEnc _ _ => true
  | .rxByte _ _ => true
  | .rxEof _ => true
  | .sigWait => true
  | .rxRd _ _ => true
  | .rxRel _ => true
  | .rxTake _ => true
  | .dspStep => true
  | .dspSvc _ => true
  | .apData _ _ _ payload _ => payloadFits payload
  | .apDataAck _ _ _ payload _ => payloadFits payload
  | .apCmd _ _ _ payload _ => payloadFits payload
  | .apCmdAck _ _ _ payload _ => payloadFits payload
  | .apAck _ _ _ payload _ => payloadFits payload
  | .apNack _ _ _ payload _ => payloadFits payload
  | .raRead _ _ _ => true
  | .raWrite _ _ _ _ => true
  | .raResp _ _ _ => true

end Sys2Proof
end

