-- ==== Sys2Proof/Decode.lean ====
section
/-! DEFINITION. The decoder, total on every request, and the encoder. A frame's layout is that of 30_encoding.md R81, R88
and R89 and its kind follows from direction, length and TYPE (R92, R97). An operation's code is the pattern `uuuooo` of
R96; the spec gives its operands no layout (92_eei_decisions.md D25), so theirs is the model's DESIGN CHOICE (log entry 2):
the code byte, then each operand in the order of the table's row, big-endian, a byte sequence last and running to the end
of the request. -/

namespace Sys2Proof

open Sys2Proof.Machine (hiByte loByte half wordBytes word crc8)

/-! ## Refusals of the decoder -/

/-- Why a request is no instruction. -/
inductive DecodeError where
  /-- Nothing stands on the operation port. -/
  | empty
  /-- The byte is no operation code of R96. -/
  | unknownCode (code : U8)
  /-- The operands are too few or too many for the operation. -/
  | operandCount (code : U8)
  /-- A bus number outside 0 and 1 (refusal F7). -/
  | badBus (v : U8)
  /-- A Boolean operand that is neither 0 nor 1. -/
  | badBool (v : U8)
  /-- A raw frame of more than 255 bytes given to `RA.DEC` (R171). -/
  | rawFrameTooLong
  /-- A frame whose length is that of no frame kind (R86, R94). -/
  | frameLength (n : Nat)
  /-- The first byte of an Addressed Packet is not 0x7E (R93 a). -/
  | badStart (v : U8)
  /-- LEN is 249 to 255 (R93 b). -/
  | lenTooLarge (len : U8)
  /-- The frame does not have the 7 + LEN bytes its LEN says (R86). -/
  | lenMismatch (len : U8)
  /-- TYPE is reserved and names no row of the table (R84, R93 e). -/
  | reservedType (typ : U8)
  /-- A frame from the block whose last byte is not its CRC-8 (R91). -/
  | badCrc
deriving DecidableEq, Repr, Inhabited

/-! ## Operation codes (R96) -/

/-- The pattern `uuuooo` in bits 5:0 of a byte, bits 7:6 zero. -/
def opCode (unit op : Nat) : U8 := BitVec.ofNat 8 (unit * 8 + op)

/-- A bus number on the operation port. -/
def decodeBus (v : U8) : Except DecodeError Bus :=
  if v = 0#8 then .ok .bus0 else if v = 1#8 then .ok .bus1 else .error (.badBus v)

/-- The byte of a bus number. -/
def encodeBus : Bus → U8
  | .bus0 => 0#8
  | .bus1 => 1#8

/-- A Boolean on the operation port. -/
def decodeBool (v : U8) : Except DecodeError Bool :=
  if v = 0#8 then .ok false else if v = 1#8 then .ok true else .error (.badBool v)

/-- The byte of a Boolean. -/
def encodeBool (v : Bool) : U8 := if v then 1#8 else 0#8

/-! ## Operands of the operation port, one form each -/

/-- No operand. -/
def operandsNone (code : U8) (rest : List U8) (i : Instr) : Except DecodeError Instr :=
  match rest with
  | [] => .ok i
  | _ :: _ => .error (.operandCount code)

/-- A bus number alone. -/
def operandsBus (code : U8) (rest : List U8) (f : Bus → Instr) : Except DecodeError Instr :=
  match rest with
  | [v] => (decodeBus v).map f
  | _ => .error (.operandCount code)

/-- A bus number and a byte. -/
def operandsBusByte (code : U8) (rest : List U8) (f : Bus → U8 → Instr) : Except DecodeError Instr :=
  match rest with
  | [v, x] => (decodeBus v).map (fun b => f b x)
  | _ => .error (.operandCount code)

/-- One byte. -/
def operandsByte (code : U8) (rest : List U8) (f : U8 → Instr) : Except DecodeError Instr :=
  match rest with
  | [x] => .ok (f x)
  | _ => .error (.operandCount code)

/-- A 16-bit value and a byte sequence. -/
def operandsHalfData (code : U8) (rest : List U8) (f : U16 → List U8 → Instr) : Except DecodeError Instr :=
  match rest with
  | hi :: lo :: data => .ok (f (half hi lo) data)
  | _ => .error (.operandCount code)

/-- A byte and a byte sequence. -/
def operandsByteData (code : U8) (rest : List U8) (f : U8 → List U8 → Instr) : Except DecodeError Instr :=
  match rest with
  | x :: data => .ok (f x data)
  | _ => .error (.operandCount code)

/-- Two bytes and a byte sequence. -/
def operandsTwoBytesData (code : U8) (rest : List U8) (f : U8 → U8 → List U8 → Instr) : Except DecodeError Instr :=
  match rest with
  | x :: y :: data => .ok (f x y data)
  | _ => .error (.operandCount code)

/-- Three bytes and a byte sequence. -/
def operandsThreeBytesData (code : U8) (rest : List U8) (f : U8 → U8 → U8 → List U8 → Instr) : Except DecodeError Instr :=
  match rest with
  | x :: y :: z :: data => .ok (f x y z data)
  | _ => .error (.operandCount code)

/-- Two bytes and a Boolean. -/
def operandsTwoBytesBool (code : U8) (rest : List U8) (f : U8 → U8 → Bool → Instr) : Except DecodeError Instr :=
  match rest with
  | [x, y, v] => (decodeBool v).map (fun a => f x y a)
  | _ => .error (.operandCount code)

/-- A byte and a 32-bit value. -/
def operandsByteWord (code : U8) (rest : List U8) (f : U8 → U32 → Instr) : Except DecodeError Instr :=
  match rest with
  | [x, b3, b2, b1, b0] => .ok (f x (word b3 b2 b1 b0))
  | _ => .error (.operandCount code)

/-- A raw frame of at most 255 bytes (R171). -/
def operandsRawFrame (rest : List U8) (f : List U8 → Instr) : Except DecodeError Instr :=
  if rawFrameFits rest then .ok (f rest) else .error .rawFrameTooLong

/-- The operation with code byte `code` and operand bytes `rest` (R96). -/
def decodeOp (code : U8) (rest : List U8) : Except DecodeError Instr :=
  if code = opCode 0 0 then operandsHalfData code rest .crc16
  else if code = opCode 0 1 then operandsByteData code rest .crc8
  else if code = opCode 1 0 then operandsBusByte code rest .apDec
  else if code = opCode 1 1 then operandsBus code rest .apRst
  else if code = opCode 1 2 then operandsThreeBytesData code rest .apEnc
  else if code = opCode 1 3 then operandsTwoBytesData code rest (fun dest typ payload => .apMkpkt payload dest typ)
  else if code = opCode 1 4 then operandsTwoBytesBool code rest .apMkcmd
  else if code = opCode 1 5 then operandsByte code rest .apMkack
  else if code = opCode 1 6 then operandsByte code rest .apMknack
  else if code = opCode 2 0 then operandsRawFrame rest .raDec
  else if code = opCode 2 1 then operandsByteWord code rest .raEnc
  else if code = opCode 3 0 then operandsBusByte code rest .rxByte
  else if code = opCode 3 1 then operandsBus code rest .rxEof
  else if code = opCode 3 2 then operandsNone code rest .sigWait
  else if code = opCode 3 3 then operandsBusByte code rest .rxRd
  else if code = opCode 3 4 then operandsBus code rest .rxRel
  else if code = opCode 3 5 then operandsBus code rest .rxTake
  else if code = opCode 4 0 then operandsNone code rest .dspStep
  else if code = opCode 4 1 then operandsBus code rest .dspSvc
  else .error (.unknownCode code)

/-! ## Frames (R81 to R94) -/

/-- The frame kind of an Addressed Packet by its TYPE (R84); codes 0 and 7 to 255 are reserved and have no row (R93 e), so
that a frame with one is no instruction (DESIGN CHOICE, log entries 3 and 23). -/
def apFrameKind (b : Bus) (src dst typ : U8) (payload : List U8) (crc : U16) : Except DecodeError Instr :=
  if typ = 1#8 then .ok (.apData b src dst payload crc)
  else if typ = 2#8 then .ok (.apDataAck b src dst payload crc)
  else if typ = 3#8 then .ok (.apCmd b src dst payload crc)
  else if typ = 4#8 then .ok (.apCmdAck b src dst payload crc)
  else if typ = 5#8 then .ok (.apAck b src dst payload crc)
  else if typ = 6#8 then .ok (.apNack b src dst payload crc)
  else .error (.reservedType typ)

/-- An Addressed Packet after its START byte and header: LEN payload bytes and two checksum bytes, high byte first (R81,
R85, R86). -/
def apFrameBody (b : Bus) (src dst len typ : U8) (rest : List U8) : Except DecodeError Instr :=
  if len.toNat > apMaxPayload then .error (.lenTooLarge len)
  else if rest.length ≠ len.toNat + 2 then .error (.lenMismatch len)
  else
    match rest.drop len.toNat with
    | [hi, lo] => apFrameKind b src dst typ (rest.take len.toNat) (half hi lo)
    | _ => .error (.lenMismatch len)

/-- A frame toward the block on bus `b`: 2 bytes are a read request, 6 a write request, 7 or more an Addressed Packet
(R86, R88, R89, R97). DESIGN CHOICE (log entry 23): bytes that are no frame of the table are no instruction and are
rejected here by name; the codec's own answer to them (R93, R94) is that of `AP.DEC`, `RA.DEC` and `DSP.SVC`. -/
def decodeFrameIn (b : Bus) (bytes : List U8) : Except DecodeError Instr :=
  match bytes with
  | [addr, crc] => .ok (.raRead b addr crc)
  | [addr, b3, b2, b1, b0, crc] => .ok (.raWrite b addr (word b3 b2 b1 b0) crc)
  | start :: src :: dst :: len :: typ :: x :: y :: rest =>
    if start ≠ apSof then .error (.badStart start) else apFrameBody b src dst len typ (x :: y :: rest)
  | _ => .error (.frameLength bytes.length)

/-- A frame from the block on bus `b`: a read response (R89), whose last byte is the CRC-8 of the five before it (R91);
other bytes are rejected by name (DESIGN CHOICE, log entry 23). -/
def decodeFrameOut (b : Bus) (bytes : List U8) : Except DecodeError Instr :=
  match bytes with
  | [addr, b3, b2, b1, b0, crc] =>
    if crc8 crc8SeedFrame [addr, b3, b2, b1, b0] = crc then .ok (.raResp b addr (word b3 b2 b1 b0)) else .error .badCrc
  | _ => .error (.frameLength bytes.length)

/-- The decoder: the instruction a request stands for, or the reason it stands for none. -/
def decode (r : Request) : Except DecodeError Instr :=
  match r.port with
  | .op =>
    match r.bytes with
    | [] => .error .empty
    | code :: rest => decodeOp code rest
  | .frameIn b => decodeFrameIn b r.bytes
  | .frameOut b => decodeFrameOut b r.bytes

/-! ## The encoder -/

/-- The wire bytes of an Addressed Packet with the checksum it carries (R81, R85). -/
def apFrameBytes (src dst typ : U8) (payload : List U8) (crc : U16) : List U8 :=
  [apSof, src, dst, BitVec.ofNat 8 payload.length, typ] ++ payload ++ [hiByte crc, loByte crc]

/-- The wire bytes of a read request with the checksum it carries (R88). -/
def raReadBytes (addr crc : U8) : List U8 := [addr, crc]

/-- The wire bytes of a write request with the checksum it carries (R89). -/
def raWriteBytes (addr : U8) (value : U32) (crc : U8) : List U8 := addr :: wordBytes value ++ [crc]

/-- `RA.ENC`: the six bytes of a read response (42_register_access.md R175). -/
def raEncode (addr : U8) (value : U32) : List U8 :=
  addr :: wordBytes value ++ [crc8 crc8SeedFrame (addr :: wordBytes value)]

/-- A request on the operation port. -/
def opRequest (unit op : Nat) (operands : List U8) : Request := ⟨.op, opCode unit op :: operands⟩

/-- The request that presents an instruction. -/
def encode : Instr → Request
  | .crc16 seed data => opRequest 0 0 (hiByte seed :: loByte seed :: data)
  | .crc8 seed data => opRequest 0 1 (seed :: data)
  | .apDec b byte => opRequest 1 0 [encodeBus b, byte]
  | .apRst b => opRequest 1 1 [encodeBus b]
  | .apEnc src dst typ payload => opRequest 1 2 (src :: dst :: typ :: payload)
  | .apMkpkt payload dest typ => opRequest 1 3 (dest :: typ :: payload)
  | .apMkcmd cmd dest ack => opRequest 1 4 [cmd, dest, encodeBool ack]
  | .apMkack dest => opRequest 1 5 [dest]
  | .apMknack dest => opRequest 1 6 [dest]
  | .raDec frame => opRequest 2 0 frame
  | .raEnc addr value => opRequest 2 1 (addr :: wordBytes value)
  | .rxByte b v => opRequest 3 0 [encodeBus b, v]
  | .rxEof b => opRequest 3 1 [encodeBus b]
  | .sigWait => opRequest 3 2 []
  | .rxRd b i => opRequest 3 3 [encodeBus b, i]
  | .rxRel b => opRequest 3 4 [encodeBus b]
  | .rxTake b => opRequest 3 5 [encodeBus b]
  | .dspStep => opRequest 4 0 []
  | .dspSvc b => opRequest 4 1 [encodeBus b]
  | .apData b src dst payload crc => ⟨.frameIn b, apFrameBytes src dst 1#8 payload crc⟩
  | .apDataAck b src dst payload crc => ⟨.frameIn b, apFrameBytes src dst 2#8 payload crc⟩
  | .apCmd b src dst payload crc => ⟨.frameIn b, apFrameBytes src dst 3#8 payload crc⟩
  | .apCmdAck b src dst payload crc => ⟨.frameIn b, apFrameBytes src dst 4#8 payload crc⟩
  | .apAck b src dst payload crc => ⟨.frameIn b, apFrameBytes src dst 5#8 payload crc⟩
  | .apNack b src dst payload crc => ⟨.frameIn b, apFrameBytes src dst 6#8 payload crc⟩
  | .raRead b addr crc => ⟨.frameIn b, raReadBytes addr crc⟩
  | .raWrite b addr value crc => ⟨.frameIn b, raWriteBytes addr value crc⟩
  | .raResp b addr value => ⟨.frameOut b, raEncode addr value⟩

/-! ## The words of spec/opcode_table.json -/

/-- `n` bytes of a number, most significant first: a frame row numbers its first byte highest (R97: START in bits 39:32,
TYPE in bits 7:0; ADDR of `RA.READ` in bits 15:8). -/
def bigEndianBytes : Nat → Nat → List U8
  | 0, _ => []
  | n + 1, w => BitVec.ofNat 8 (w / 256 ^ n) :: bigEndianBytes n w

/-- How many operand bytes an operation takes at least; a byte sequence may be empty. -/
def operandBytes (code : U8) : Nat :=
  if code = opCode 0 0 then 2
  else if code = opCode 0 1 then 1
  else if code = opCode 1 0 then 2
  else if code = opCode 1 1 then 1
  else if code = opCode 1 2 then 3
  else if code = opCode 1 3 then 2
  else if code = opCode 1 4 then 3
  else if code = opCode 1 5 then 1
  else if code = opCode 1 6 then 1
  else if code = opCode 2 0 then 0
  else if code = opCode 2 1 then 5
  else if code = opCode 3 0 then 2
  else if code = opCode 3 1 then 1
  else if code = opCode 3 2 then 0
  else if code = opCode 3 3 then 2
  else if code = opCode 3 4 then 1
  else if code = opCode 3 5 then 1
  else if code = opCode 4 0 then 0
  else if code = opCode 4 1 then 1
  else 0

/-- The request of a row's word, every bit above `nbits` zero (log entry 3): 8 bits are an operation's code, its operands
zero; 40 bits the header of an Addressed Packet received on bus 0, its LEN payload bytes and checksum zero; 16 and 48 bits
a Register-Access frame received on bus 1. The words of `RA.WRITE` and `RA.RESP` are the same; the direction tells them
apart (R92), and a word is read as received (log entry 4). -/
def tableRequest (nbits w : Nat) : Option Request :=
  if nbits = 8 then
    let code : U8 := BitVec.ofNat 8 w
    some ⟨.op, code :: List.replicate (operandBytes code) 0#8⟩
  else if nbits = 16 then some ⟨.frameIn .bus1, bigEndianBytes 2 w⟩
  else if nbits = 40 then
    let header := bigEndianBytes 5 w
    some ⟨.frameIn .bus0, header ++ List.replicate ((header.getD 3 0#8).toNat + 2) 0#8⟩
  else if nbits = 48 then some ⟨.frameIn .bus1, bigEndianBytes 6 w⟩
  else none

/-- The instruction the decoder reads from a word of the opcode table. -/
def decodeTableWord (nbits w : Nat) : Option Instr :=
  match tableRequest nbits w with
  | none => none
  | some r =>
    match decode r with
    | .ok i => some i
    | .error _ => none

end Sys2Proof
end

