-- ==== Sys2Proof/Machine/State.lean ====
section
/-! DEFINITION. The state of the block (10_state.md R20 to R42), the inputs and records the model keeps beside it, the
outcomes and events of the operations, the reasons a step can stop, and reset. INVENTORY.md lists every field with its
rule. -/

namespace Sys2Proof.Machine

/-! ## Outcomes (60_exceptions.md R240) -/

/-- What `AP.DEC` returns (41_addressed_packet.md R131). -/
inductive ApOutcome where
  | notReady
  | ready (p : Packet)
  | invalid
  | wrongAddress
  | error
deriving DecidableEq, Repr, Inhabited

/-- The kind of a FrameError (42_register_access.md R172). -/
inductive FrameErrorKind where
  | badLength
  | badCrc
deriving DecidableEq, Repr, Inhabited

/-- What `RA.DEC` returns (R171). -/
inductive RaOutcome where
  | ok (op : RegOp)
  | frameError (k : FrameErrorKind)
deriving DecidableEq, Repr, Inhabited

/-- What `SIG.WAIT` returns (43_receiver_handshake.md R197); bit `b` of the mask is bus `b` (R34). -/
inductive WaitOutcome where
  | signalled (m : BitVec 2)
  | timeout
deriving DecidableEq, Repr, Inhabited

/-- The outcome the last operation returned (00_scope.md R13). The MODEL's own record (log entry 17). -/
inductive Result where
  /-- The operation returns nothing. -/
  | none
  /-- The operation has not completed: the consumer is suspended in a wait (R197). -/
  | pending
  | crc16 (v : U16)
  | crc8 (v : U8)
  | ap (o : ApOutcome)
  | ra (o : RaOutcome)
  | wait (o : WaitOutcome)
  /-- The encoded frame of `AP.ENC`, an `AP.MK*` helper or `RA.ENC`. -/
  | frame (bytes : List U8)
  /-- The byte of `RX.RD`. -/
  | byte (v : U8)
  /-- The raw frame of `RX.TAKE`. -/
  | taken (bytes : List U8)
deriving DecidableEq, Repr, Inhabited

/-! ## Events (R251) -/

/-- The cause in a `DecodeFailure` log (44_dispatch.md R223, R226). -/
inductive DecodeCause where
  | invalid
  | wrongAddress
  | error
  | frameError (k : FrameErrorKind)
deriving DecidableEq, Repr, Inhabited

/-- The cause in a `RegisterError` log (R223). -/
inductive RegCause where
  | notFound
  | writeError
deriving DecidableEq, Repr, Inhabited

/-- What is sent to the log (44_dispatch.md R228). -/
inductive LogEvent where
  | noCommandReceived
  | decodeFailure (b : Bus) (cause : DecodeCause)
  | registerError (b : Bus) (addr : U8) (cause : RegCause)
deriving DecidableEq, Repr, Inhabited

/-- An event out of the block (R251). -/
inductive Event where
  | wake (b : Bus)
  | rxDropped (b : Bus)
  | send (b : Bus) (bytes : List U8)
  | log (l : LogEvent)
  | packetReady (b : Bus) (p : Packet)
deriving DecidableEq, Repr, Inhabited

/-- A call out of the block to the register table with its answer (R224, R225). -/
inductive RegCall where
  | read (addr : U8) (answer : ReadAnswer)
  | write (addr : U8) (value : U32) (answer : WriteAnswer)
deriving DecidableEq, Repr, Inhabited

/-! ## Stores (20_memory.md R50) -/

/-- One byte store: the cells that hold a value, indices strictly rising. A byte that is not listed holds no value yet
(10_state.md R28). -/
abbrev Memory := List Host.Cell

/-- Which of the two receive buffers of a bus. -/
inductive BufSel where
  | buf0
  | buf1
deriving DecidableEq, Repr, Inhabited

/-- The byte stores of the block (R50). -/
inductive Space where
  /-- `PAYLOAD[b]`. -/
  | payload (b : Bus)
  /-- `RXBUF[b][k]`. -/
  | rxbuf (b : Bus) (k : BufSel)
deriving DecidableEq, Repr, Inhabited

/-! ## Why a step stops -/

/-- Faults. Neither is reachable from reset (R28, 41_addressed_packet.md R147); both are safe: the model stops where the
spec gives no value. -/
inductive Fault where
  /-- A read of a byte that nothing has written (10_state.md R28: "reading one is a fault of the model, never a zero").
  Raised by the reads of `AP.DEC`, `RX.RD` and `RX.TAKE`. Safe. -/
  | unwrittenByte (sp : Space) (i : Nat)
  /-- An access outside the store (20_memory.md R50: "defined only for an index inside the store"). Raised by every byte
  access. Safe. -/
  | outsideStore (sp : Space) (i : Nat)
deriving DecidableEq, Repr, Inhabited

/-- Refusals: inputs to which the spec gives no meaning (60_exceptions.md R247, 93_implementation_defined.md F1 to F8). All
are safe: nothing is computed and no state changes. -/
inductive Refusal where
  /-- An instruction that has no meaning in the model yet; no arm of `exec` says so in this model. Safe. -/
  | notModelled (mnemonic : String)
  /-- The request is no instruction: F7 and the encodings the decoder rejects by name. Raised by the step. Safe. -/
  | undecodable (e : DecodeError)
  /-- F6: the agent may not issue the operation (R262). Raised by the step. Safe. -/
  | wrongContext
  /-- F4: `AP.DEC` or `AP.RST` on a bus whose codec is not the Addressed-Packet one (R247). Safe. -/
  | wrongCodec
  /-- F1: `ENC_TOO_LONG` (R151). Raised by `AP.ENC` and `AP.MKPKT`. Safe. -/
  | encTooLong
  /-- F2: `ENC_BAD_TYPE` (R151). Raised by `AP.ENC` and `AP.MKPKT`. Safe. -/
  | encBadType
  /-- F3: `RX_NOT_OWNED` (R198 to R200). Raised by `RX.RD`, `RX.REL`, `RX.TAKE`, and by `DSP.SVC` through `RX.TAKE`. Safe. -/
  | rxNotOwned
  /-- F5: `RX_INDEX` (R198). Raised by `RX.RD`. Safe. -/
  | rxIndex
  /-- F8: `RX_CAP` outside 1..255 (R8). Raised by `RX.BYTE`, the one operation that reads it. Safe. -/
  | badParameter
deriving DecidableEq, Repr, Inhabited

/-- Either way of stopping, inside an operation. -/
inductive Stop where
  | fault (f : Fault)
  | refused (r : Refusal)
deriving DecidableEq, Repr, Inhabited

/-! ## The state -/

/-- One Addressed-Packet decoder instance `AP[b]` with its store `PAYLOAD[b]` (R23). -/
structure ApDec where
  pos : U8
  src : U8
  dst : U8
  len : U8
  typ : U8
  crcRx : U16
  dstBad : Bool
  payload : Memory
deriving DecidableEq, Repr

/-- One receiver channel `RX[b]` with its two buffers (R30). -/
structure RxChan where
  cur : U8
  wsel : BufSel
  flen : U8
  full : Bool
  sig : Bool
  buf0 : Memory
  buf1 : Memory
deriving DecidableEq, Repr

/-- Where the consumer stands inside an operation that is not atomic (R197, R221). The MODEL's own field (log entries 13
and 15). -/
inductive Ctl where
  /-- Between two operations. -/
  | ready
  /-- Suspended in a `SIG.WAIT` it issued. -/
  | waiting
  /-- Suspended in the wait of a `DSP.STEP`. -/
  | stepping
  /-- In a `DSP.STEP` whose wait has returned: the services still owed, next first. -/
  | serving (todo : List Bus)
deriving DecidableEq, Repr, Inhabited

/-- One move of an execution (R60, R232): an agent acts, or the environment resets the block. -/
inductive Move where
  | agent (a : Agent)
  | reset
deriving DecidableEq, Repr, Inhabited

/-- The free inputs still to come (93_implementation_defined.md U6, ND1, ND2): what the register table will answer,
whether a wait times out, whether two services go in ascending order; `drawn` counts the values drawn past their end. -/
structure Env where
  reads : List ReadAnswer
  writes : List WriteAnswer
  timeouts : List Bool
  orders : List Bool
  drawn : Nat
deriving DecidableEq, Repr

/-- The state: the parameters, the elements of R20, then the model's own inputs and records. -/
structure State where
  cfg : Params
  ap0 : ApDec
  ap1 : ApDec
  rx0 : RxChan
  rx1 : RxChan
  ctl : Ctl
  sched : List Move
  queue0 : List Request
  queue1 : List Request
  queueC : List Request
  env : Env
  result : Result
  events : List Event
  calls : List RegCall
deriving DecidableEq, Repr

/-! ## Reset (10_state.md R42) -/

/-- `AP[b]` after reset: `pos` = 0 and `dst_bad` = 0 as the spec says. DESIGN CHOICE (unsafe): the other registers are
unspecified and read as zero here (log entry 8); no byte of `PAYLOAD[b]` holds a value (log entry 9). -/
def ApDec.reset : ApDec where
  pos := 0#8
  src := 0#8
  dst := 0#8
  len := 0#8
  typ := 0#8
  crcRx := 0#16
  dstBad := false
  payload := []

/-- `RX[b]` after reset: `cur`, `wsel`, `full`, `sig` = 0 as the spec says. DESIGN CHOICE (unsafe): `flen` is unspecified
and reads as zero here (log entry 8); no byte of a buffer holds a value (log entry 9). -/
def RxChan.reset : RxChan where
  cur := 0#8
  wsel := .buf0
  flen := 0#8
  full := false
  sig := false
  buf0 := []
  buf1 := []

/-- The block with parameters `p` right after reset: no event is pending (R252), nothing has been issued or emitted. -/
def State.resetWith (p : Params) : State where
  cfg := p
  ap0 := ApDec.reset
  ap1 := ApDec.reset
  rx0 := RxChan.reset
  rx1 := RxChan.reset
  ctl := .ready
  sched := []
  queue0 := []
  queue1 := []
  queueC := []
  env := ⟨[], [], [], [], 0⟩
  result := .none
  events := []
  calls := []

/-- The machine right after reset, with the parameters of `Params.default` (log entry 5). -/
def State.reset : State := State.resetWith Params.default

end Sys2Proof.Machine
end

