-- ==== Sys2Proof/Machine/Operands.lean ====
section
/-! DEFINITION. The operand forms: what a bus number selects (00_scope.md R11), the two buffers of a channel (10_state.md
R30), the parameters of a bus (R8), and byte access to a named store (R12, 20_memory.md R50, R57). -/

namespace Sys2Proof.Machine

/-! ## A bus operand -/

/-- `AP[b]`. -/
def State.ap (s : State) : Bus → ApDec
  | .bus0 => s.ap0
  | .bus1 => s.ap1

/-- `AP[b]` replaced. -/
def State.setAp (s : State) (b : Bus) (d : ApDec) : State :=
  match b with
  | .bus0 => { s with ap0 := d }
  | .bus1 => { s with ap1 := d }

/-- `RX[b]`. -/
def State.rx (s : State) : Bus → RxChan
  | .bus0 => s.rx0
  | .bus1 => s.rx1

/-- `RX[b]` replaced. -/
def State.setRx (s : State) (b : Bus) (c : RxChan) : State :=
  match b with
  | .bus0 => { s with rx0 := c }
  | .bus1 => { s with rx1 := c }

/-- `CODEC[b]`. -/
def codecOf (p : Params) : Bus → Codec
  | .bus0 => p.codec0
  | .bus1 => p.codec1

/-- `WRITE_ACK[b]`. -/
def writeAckOf (p : Params) : Bus → Bool
  | .bus0 => p.writeAck0
  | .bus1 => p.writeAck1

/-- The bus other than `b`. -/
def otherBus : Bus → Bus
  | .bus0 => .bus1
  | .bus1 => .bus0

/-! ## The two buffers of a channel -/

/-- `1 - wsel`. -/
def BufSel.other : BufSel → BufSel
  | .buf0 => .buf1
  | .buf1 => .buf0

/-- `RXBUF[b][k]` of a channel. -/
def RxChan.buf (c : RxChan) : BufSel → Memory
  | .buf0 => c.buf0
  | .buf1 => c.buf1

/-- `RXBUF[b][k]` of a channel replaced. -/
def RxChan.setBuf (c : RxChan) (k : BufSel) (m : Memory) : RxChan :=
  match k with
  | .buf0 => { c with buf0 := m }
  | .buf1 => { c with buf1 := m }

/-- The fill buffer, `RXBUF[b][wsel]` (R30). -/
def RxChan.fill (c : RxChan) : Memory := c.buf c.wsel

/-- The latched buffer, `RXBUF[b][1 - wsel]` (R30). -/
def RxChan.latched (c : RxChan) : Memory := c.buf c.wsel.other

/-! ## One byte of a store -/

/-- The byte a store holds at an index, or none where nothing has written it. -/
def Memory.read : Memory → Nat → Option U8
  | [], _ => none
  | (a, v) :: m, i => if a = i then some v else Memory.read m i

/-- The store with the byte at an index replaced; the indices stay strictly rising. -/
def Memory.write : Memory → Nat → U8 → Memory
  | [], i, v => [(i, v)]
  | (a, w) :: m, i, v =>
    if i < a then (i, v) :: (a, w) :: m
    else if a = i then (i, v) :: m
    else (a, w) :: Memory.write m i v

/-- Every listed index is above `lo`, and they rise strictly. -/
def Memory.above : Nat → Memory → Bool
  | _, [] => true
  | lo, (a, _) :: m => decide (lo < a) && Memory.above a m

/-- The canonical form of a store: indices strictly rising. -/
def Memory.wf : Memory → Bool
  | [] => true
  | (a, _) :: m => Memory.above a m

/-- The named store (R50). -/
def State.store (s : State) : Space → Memory
  | .payload b => (s.ap b).payload
  | .rxbuf b k => (s.rx b).buf k

/-- The named store replaced. -/
def State.setStore (s : State) (sp : Space) (m : Memory) : State :=
  match sp with
  | .payload b => s.setAp b { s.ap b with payload := m }
  | .rxbuf b k => s.setRx b ((s.rx b).setBuf k m)

/-- How many bytes the named store has (R50). -/
def storeSize (p : Params) : Space → Nat
  | .payload _ => apMaxPayload
  | .rxbuf _ _ => p.rxCap.toNat

/-- `MemRead(space, i, 1)` (R12): defined for an index inside the store (R50), of a byte something has written (R28). -/
def State.memRead (s : State) (sp : Space) (i : Nat) : Except Stop U8 :=
  if i < storeSize s.cfg sp then
    match (s.store sp).read i with
    | some v => .ok v
    | none => .error (.fault (.unwrittenByte sp i))
  else .error (.fault (.outsideStore sp i))

/-- `MemWrite(space, i, 1, v)` (R12): defined for an index inside the store (R50). -/
def State.memWrite (s : State) (sp : Space) (i : Nat) (v : U8) : Except Stop State :=
  if i < storeSize s.cfg sp then .ok (s.setStore sp ((s.store sp).write i v))
  else .error (.fault (.outsideStore sp i))

/-- `[MemRead(space, i, 1) for i = from .. from + n - 1]`. -/
def State.readBytes (s : State) (sp : Space) : Nat → Nat → Except Stop (List U8)
  | _, 0 => .ok []
  | i, n + 1 =>
    match s.memRead sp i with
    | .error e => .error e
    | .ok v =>
      match s.readBytes sp (i + 1) n with
      | .error e => .error e
      | .ok vs => .ok (v :: vs)

end Sys2Proof.Machine
end

