-- ==== Sys2Proof/Machine/Flags.lean ====
section
/-! DEFINITION. The flags and the pure classifications of the block: the destination flag (10_state.md R26), the signal
mask (R34), ownership of a latched buffer (R198), the type of a packet (41_addressed_packet.md R144), the state names of
R25 and the outcome codes of 60_exceptions.md R240. -/

namespace Sys2Proof.Machine

/-- A Boolean as one bit. -/
def bitOf (v : Bool) : BitVec 1 := if v then 1#1 else 0#1

/-- The mask `{RX[1].sig, RX[0].sig}` of `SIG.WAIT` (R34, R197). -/
def State.sigMask (s : State) : BitVec 2 := bitOf s.rx1.sig ++ bitOf s.rx0.sig

/-- The consumer owns the latched buffer of bus `b`: a frame was handed off and its signal consumed (R198). -/
def State.owned (s : State) (b : Bus) : Bool := (s.rx b).full && !(s.rx b).sig

/-- `dst_bad` after the destination byte in `CONSUME` mode: set on a mismatch, else as it was (R135). -/
def dstBadAfter (p : Params) (byte : U8) (was : Bool) : Bool :=
  if byte = p.nodeAddr then was else true

/-- The type of a packet (R144); an unknown code is a case of its own. -/
inductive PacketType where
  | data
  | dataAck
  | command
  | commandAck
  | ack
  | nack
  | unknown (t : U8)
deriving DecidableEq, Repr, Inhabited

/-- `type_of` (R144). -/
def typeOf (t : U8) : PacketType :=
  if t = 1#8 then .data
  else if t = 2#8 then .dataAck
  else if t = 3#8 then .command
  else if t = 4#8 then .commandAck
  else if t = 5#8 then .ack
  else if t = 6#8 then .nack
  else .unknown t

/-- The names of the decoder's states (R25). DONE is never held between operations; `beyond` is a position past the
expected end, which no name of R25 covers (R142). -/
inductive ApStateName where
  | awaitStart
  | haveSrc
  | haveDst
  | haveLen
  | haveType
  | inPayload
  | haveCrcHi
  | beyond
deriving DecidableEq, Repr, Inhabited

/-- The state name of an instance (R25). -/
def ApDec.stateName (d : ApDec) : ApStateName :=
  if d.pos = 0#8 then .awaitStart
  else if d.pos = 1#8 then .haveSrc
  else if d.pos = 2#8 then .haveDst
  else if d.pos = 3#8 then .haveLen
  else if d.pos = 4#8 then .haveType
  else if d.pos.toNat ≤ apHdr + d.len.toNat then .inPayload
  else if d.pos.toNat = apHdr + 1 + d.len.toNat then .haveCrcHi
  else .beyond

/-- The code of an `AP.DEC` outcome (R240). -/
def apOutcomeCode : ApOutcome → Nat
  | .notReady => 0
  | .ready _ => 1
  | .invalid => 2
  | .wrongAddress => 3
  | .error => 4

/-- The code of an `RA.DEC` outcome (R240). -/
def raOutcomeCode : RaOutcome → Nat
  | .ok (.read _) => 0
  | .ok (.write _ _) => 1
  | .frameError .badLength => 2
  | .frameError .badCrc => 3

/-- The code of a `RegRead` answer (R240). -/
def readAnswerCode : ReadAnswer → Nat
  | .ok _ => 0
  | .notFound => 1

/-- The code of a `RegWrite` answer (R240). -/
def writeAnswerCode : WriteAnswer → Nat
  | .ok => 0
  | .writeError => 1

/-- The code of a `SIG.WAIT` outcome (R240). -/
def waitOutcomeCode : WaitOutcome → Nat
  | .signalled _ => 0
  | .timeout => 1

/-- Whether an `AP.DEC` outcome is an error (R240). -/
def apOutcomeIsError : ApOutcome → Bool
  | .notReady => false
  | .ready _ => false
  | .invalid => true
  | .wrongAddress => true
  | .error => true

/-- The cause an `AP.DEC` error is logged with (44_dispatch.md R226). -/
def apFailureCause : ApOutcome → Option DecodeCause
  | .notReady => none
  | .ready _ => none
  | .invalid => some .invalid
  | .wrongAddress => some .wrongAddress
  | .error => some .error

/-- The cause a register answer is logged with, when it is an error (R223, R226). -/
def regFailureCause : RegAnswer → Option RegCause
  | .read (.ok _) => none
  | .read .notFound => some .notFound
  | .write .ok => none
  | .write .writeError => some .writeError

end Sys2Proof.Machine
end

