-- ==== Sys2Proof/Machine/Ops.lean ====
section
/-! DEFINITION. The named operations the meanings share: returning an outcome and emitting an event (00_scope.md R12, R13),
the calls to the register table (44_dispatch.md R224, R225), the free choices, and what an error does to a decoder, the
cursor reset (41_addressed_packet.md R132, 60_exceptions.md R257). The block has no traps: nothing is saved on an error,
control goes nowhere and there is no return operation (R257, R258), so the cursor reset is all there is to share. -/

namespace Sys2Proof.Machine

/-! ## Ending an operation -/

/-- What a step of the block answers. -/
abbrev Answer := Host.Outcome State Fault Refusal

/-- `return r`. -/
def State.finish (s : State) (r : Result) : State := { s with result := r }

/-- `emit e`. -/
def State.emit (s : State) (e : Event) : State := { s with events := s.events ++ [e] }

/-- The consumer's place set. -/
def State.withCtl (s : State) (c : Ctl) : State := { s with ctl := c }

/-- An operation that stopped or went through, as an answer. -/
def toAnswer : Except Stop State → Answer
  | .ok s => .next s
  | .error (.fault f) => .fault f
  | .error (.refused r) => .refused r

/-- An encoder's bytes returned, or its refusal; no state is read or written but the outcome (R150, R151). -/
def returnFrame (frame : Except Refusal (List U8)) (s : State) : Answer :=
  match frame with
  | .ok bytes => .next (s.finish (.frame bytes))
  | .error r => .refused r

/-! ## An error outcome of a decoder -/

/-- "Reset the cursor": `pos` and `dst_bad` are cleared and no other field is written (R132, 10_state.md R27). Every
terminal outcome of `AP.DEC` does this, and `AP.RST`. -/
def State.resetCursor (s : State) (b : Bus) : State :=
  s.setAp b { s.ap b with pos := 0#8, dstBad := false }

/-! ## The register table, an external oracle -/

/-- The next answer of the register table to `RegRead a`: the one State lists, or past the list a free value (U6). -/
def State.drawRead (s : State) (a : U8) : ReadAnswer × State :=
  match s.env.reads with
  | r :: rs => (r, { s with env := { s.env with reads := rs } })
  | [] => (Config.freeReadAnswer s.env.drawn a, { s with env := { s.env with drawn := s.env.drawn + 1 } })

/-- The next answer of the register table to `RegWrite a v`. -/
def State.drawWrite (s : State) (a : U8) (v : U32) : WriteAnswer × State :=
  match s.env.writes with
  | r :: rs => (r, { s with env := { s.env with writes := rs } })
  | [] => (Config.freeWriteAnswer s.env.drawn a v, { s with env := { s.env with drawn := s.env.drawn + 1 } })

/-- `RegRead(a)` (R224). -/
def State.regRead (s : State) (a : U8) : ReadAnswer × State :=
  match s.drawRead a with
  | (r, s1) => (r, { s1 with calls := s1.calls ++ [.read a r] })

/-- `RegWrite(a, v)` (R225). -/
def State.regWrite (s : State) (a : U8) (v : U32) : WriteAnswer × State :=
  match s.drawWrite a v with
  | (r, s1) => (r, { s1 with calls := s1.calls ++ [.write a v r] })

/-- The register call of an operation `AP_REGOP` named (44_dispatch.md R226). -/
def State.regCall (s : State) : RegOp → RegAnswer × State
  | .read a => match s.regRead a with | (r, s1) => (.read r, s1)
  | .write a v => match s.regWrite a v with | (r, s1) => (.write r, s1)

/-- The register address of an operation. -/
def regAddr : RegOp → U8
  | .read a => a
  | .write a _ => a

/-- The value of a function given by its graph, none where nothing is listed (log entry 6). -/
def graphAt {α β : Type} [DecidableEq α] : List (α × β) → α → Option β
  | [], _ => none
  | (x, y) :: g, a => if x = a then some y else graphAt g a

/-! ## The free choices -/

/-- Whether a wait with no bit set times out (ND1). -/
def State.drawTimeout (s : State) : Bool × State :=
  match s.env.timeouts with
  | t :: ts => (t, { s with env := { s.env with timeouts := ts } })
  | [] => (Config.freeTimeout s.env.drawn, { s with env := { s.env with drawn := s.env.drawn + 1 } })

/-- Whether the two services of a turn go in ascending order (ND2). -/
def State.drawAscending (s : State) : Bool × State :=
  match s.env.orders with
  | t :: ts => (t, { s with env := { s.env with orders := ts } })
  | [] => (Config.freeAscending s.env.drawn, { s with env := { s.env with drawn := s.env.drawn + 1 } })

end Sys2Proof.Machine
end

