-- ==== Sys2Proof/Machine/Crc.lean ====
section
/-! DEFINITION. The meanings of the CRC family (40_crc.md): pure, total, no state read or written (R110). -/

namespace Sys2Proof.Machine

/-- `CRC16 seed, data` (R112). -/
def execCrc16 (seed : U16) (data : List U8) (s : State) : Answer :=
  .next (s.finish (.crc16 (crc16 s.cfg.crc16Reflect seed data)))

/-- `CRC8 seed, data` (R117). -/
def execCrc8 (seed : U8) (data : List U8) (s : State) : Answer :=
  .next (s.finish (.crc8 (crc8 seed data)))

end Sys2Proof.Machine
end

