-- ==== Sys2Proof/Machine/AddressedPacket.lean ====
section
/-! DEFINITION. Frame Codec A (41_addressed_packet.md): the decoder, one arm for each role a byte can have, and the
encoder with its four helpers. -/

namespace Sys2Proof.Machine

/-! ## The arms of the decoder -/

/-- Arm `pos` = 0 (R133). -/
def armStart (b : Bus) (byte : U8) (s : State) : ApOutcome × State :=
  if byte = apSof then (.notReady, s.setAp b { s.ap b with pos := 1#8, dstBad := false })
  else (.invalid, s)

/-- Arm `pos` = 1 (R134). -/
def armSrc (b : Bus) (byte : U8) (s : State) : ApOutcome × State :=
  (.notReady, s.setAp b { s.ap b with src := byte, pos := 2#8 })

/-- Arm `pos` = 2 in `CONSUME` mode (R135). -/
def armDstConsume (b : Bus) (byte : U8) (s : State) : ApOutcome × State :=
  (.notReady,
    s.setAp b { s.ap b with dst := byte, pos := 3#8, dstBad := dstBadAfter s.cfg byte (s.ap b).dstBad })

/-- Arm `pos` = 2 in `IMMEDIATE` mode (R136). -/
def armDstImmediate (b : Bus) (byte : U8) (s : State) : ApOutcome × State :=
  if byte = s.cfg.nodeAddr then (.notReady, s.setAp b { s.ap b with dst := byte, pos := 3#8 })
  else (.wrongAddress, (s.setAp b { s.ap b with dst := byte }).resetCursor b)

/-- Arm `pos` = 2: the mode chooses (R131). -/
def armDst (b : Bus) (byte : U8) (s : State) : ApOutcome × State :=
  match s.cfg.wrongAddrMode with
  | .consume => armDstConsume b byte s
  | .immediate => armDstImmediate b byte s

/-- Arm `pos` = 3 (R137). -/
def armLen (b : Bus) (byte : U8) (s : State) : ApOutcome × State :=
  if byte.toNat > apMaxPayload then (.invalid, s.resetCursor b)
  else (.notReady, s.setAp b { s.ap b with len := byte, pos := 4#8 })

/-- Arm `pos` = 4 (R138). -/
def armType (b : Bus) (byte : U8) (s : State) : ApOutcome × State :=
  (.notReady, s.setAp b { s.ap b with typ := byte, pos := 5#8 })

/-- Arm 5 ≤ `pos` ≤ 4 + `len`: payload byte number `pos` - 5 (R139). -/
def armPayload (b : Bus) (byte : U8) (s : State) : Except Stop (ApOutcome × State) :=
  match s.memWrite (.payload b) ((s.ap b).pos.toNat - apHdr) byte with
  | .error e => .error e
  | .ok s1 => .ok (.notReady, s1.setAp b { s1.ap b with pos := (s.ap b).pos + 1#8 })

/-- Arm `pos` = 5 + `len`: checksum high byte (R140). -/
def armCrcHigh (b : Bus) (byte : U8) (s : State) : ApOutcome × State :=
  (.notReady, s.setAp b { s.ap b with crcRx := half byte 0#8, pos := (s.ap b).pos + 1#8 })

/-- The packet of R143: the fields of the instance, its payload and the received checksum. -/
def packetOf (d : ApDec) (payload : List U8) (rx : U16) : Packet :=
  ⟨d.src, d.dst, d.len, d.typ, payload, rx⟩

/-- Arm `pos` = 6 + `len`: checksum low byte, end of frame. The checksum is tested first, then the destination (R141). -/
def armCrcLow (b : Bus) (byte : U8) (s : State) : Except Stop (ApOutcome × State) :=
  match s.readBytes (.payload b) 0 (s.ap b).len.toNat with
  | .error e => .error e
  | .ok payload =>
    let d := s.ap b
    let rx := half (hiByte d.crcRx) byte
    let computed := crc16 s.cfg.crc16Reflect crc16SeedFrame ([d.src, d.dst, d.len, d.typ] ++ payload)
    let s1 := (s.setAp b { d with crcRx := rx }).resetCursor b
    if computed ≠ rx then .ok (.invalid, s1)
    else if d.dstBad then .ok (.wrongAddress, s1)
    else .ok (.ready (packetOf d payload rx), s1)

/-- Arm `pos` > 6 + `len` (R142). -/
def armBeyond (b : Bus) (s : State) : ApOutcome × State :=
  (.error, s.resetCursor b)

/-- `AP.DEC` on an instance that exists: exactly one arm, tested in the order of R131. The comparisons of positions are
over the integers (40_crc.md R119). -/
def apDecodeByte (b : Bus) (byte : U8) (s : State) : Except Stop (ApOutcome × State) :=
  let p := (s.ap b).pos.toNat
  let len := (s.ap b).len.toNat
  if p = 0 then .ok (armStart b byte s)
  else if p = 1 then .ok (armSrc b byte s)
  else if p = 2 then .ok (armDst b byte s)
  else if p = 3 then .ok (armLen b byte s)
  else if p = 4 then .ok (armType b byte s)
  else if p ≤ 4 + len then armPayload b byte s
  else if p = 5 + len then .ok (armCrcHigh b byte s)
  else if p = 6 + len then armCrcLow b byte s
  else .ok (armBeyond b s)

/-! ## The encoder -/

/-- `AP.ENC` (R150) with its refusals (R151). -/
def apEncode (p : Params) (src dst typ : U8) (payload : List U8) : Except Refusal (List U8) :=
  if payload.length > apMaxPayload then .error .encTooLong
  else if typ.toNat < 1 ∨ typ.toNat > 6 then .error .encBadType
  else
    let body := [src, dst, BitVec.ofNat 8 payload.length, typ] ++ payload
    let c := crc16 p.crc16Reflect crc16SeedFrame body
    .ok ([apSof] ++ body ++ [hiByte c, loByte c])

/-! ## The meanings -/

/-- `AP.DEC b, byte` (R131); the instance exists on an Addressed-Packet bus only (60_exceptions.md R247). -/
def execApDec (b : Bus) (byte : U8) (s : State) : Answer :=
  if codecOf s.cfg b = .ap then
    toAnswer (match apDecodeByte b byte s with
      | .error e => .error e
      | .ok (o, s1) => .ok (s1.finish (.ap o)))
  else .refused .wrongCodec

/-- `AP.RST b` (R148). -/
def execApRst (b : Bus) (s : State) : Answer :=
  if codecOf s.cfg b = .ap then .next ((s.resetCursor b).finish .none)
  else .refused .wrongCodec

/-- `AP.ENC src, dst, typ, payload` (R150). -/
def execApEnc (src dst typ : U8) (payload : List U8) (s : State) : Answer :=
  returnFrame (apEncode s.cfg src dst typ payload) s

/-- `AP.MKPKT payload, dest, typ` (R152). -/
def execApMkpkt (payload : List U8) (dest typ : U8) (s : State) : Answer :=
  returnFrame (apEncode s.cfg s.cfg.nodeAddr dest typ payload) s

/-- `AP.MKCMD cmd, dest, ack` (R153): type 4 when an acknowledgement is asked for, else 3. -/
def execApMkcmd (cmd dest : U8) (ack : Bool) (s : State) : Answer :=
  returnFrame (apEncode s.cfg s.cfg.nodeAddr dest (if ack then 4#8 else 3#8) [cmd]) s

/-- `AP.MKACK dest` (R154). -/
def execApMkack (dest : U8) (s : State) : Answer :=
  returnFrame (apEncode s.cfg s.cfg.nodeAddr dest 5#8 []) s

/-- `AP.MKNACK dest` (R155). -/
def execApMknack (dest : U8) (s : State) : Answer :=
  returnFrame (apEncode s.cfg s.cfg.nodeAddr dest 6#8 []) s

end Sys2Proof.Machine
end

