-- ==== Sys2Proof/Machine/Receiver.lean ====
section
/-! DEFINITION. The Interrupt-Context Receiver and the hand-off (43_receiver_handshake.md). -/

namespace Sys2Proof.Machine

/-! ## Producer operations -/

/-- The index a received byte is stored at: `cur`, or 0 when the fill buffer is full (R192, R193). -/
def storeIndex (p : Params) (c : RxChan) : U8 :=
  if c.cur = p.rxCap then 0#8 else c.cur

/-- `RX.BYTE` (R192). `RX_CAP` = 0 is a parameter out of range (refusal F8). -/
def receiveByte (b : Bus) (v : U8) (s : State) : Except Stop State :=
  if s.cfg.rxCap = 0#8 then .error (.refused .badParameter)
  else
    let i := storeIndex s.cfg (s.rx b)
    match s.memWrite (.rxbuf b (s.rx b).wsel) i.toNat v with
    | .error e => .error e
    | .ok s1 => .ok (s1.setRx b { s1.rx b with cur := i + 1#8 })

/-- `RX.EOF` in the hand-off case, `full` = 0 (R194). -/
def handOff (b : Bus) (s : State) : State :=
  let c := s.rx b
  (s.setRx b { c with flen := c.cur, wsel := c.wsel.other, full := true, sig := true, cur := 0#8 }).emit (.wake b)

/-- `RX.EOF` in the overrun case, `full` = 1: the new raw frame is dropped (R195). -/
def overrun (b : Bus) (s : State) : State :=
  (s.setRx b { s.rx b with cur := 0#8 }).emit (.rxDropped b)

/-- `RX.EOF` (R194, R195). -/
def endOfFrame (b : Bus) (s : State) : State :=
  if (s.rx b).full then overrun b s else handOff b s

/-! ## Consumer operations -/

/-- Both signal bits cleared (R197). -/
def State.clearSignals (s : State) : State :=
  { s with rx0 := { s.rx0 with sig := false }, rx1 := { s.rx1 with sig := false } }

/-- `SIG.WAIT` (R197): its outcome, or none where it does not complete yet. -/
def State.waitSignal (s : State) : Option WaitOutcome × State :=
  if s.sigMask = 0#2 then
    match s.drawTimeout with
    | (t, s1) => (if t then some .timeout else none, s1)
  else (some (.signalled s.sigMask), s.clearSignals)

/-- The index store of the latched buffer of bus `b` (R30). -/
def State.latchedSpace (s : State) (b : Bus) : Space := .rxbuf b (s.rx b).wsel.other

/-- `RX.RD` (R198). -/
def readLatched (b : Bus) (i : U8) (s : State) : Except Stop U8 :=
  if s.owned b then
    if i.toNat ≥ (s.rx b).flen.toNat then .error (.refused .rxIndex)
    else s.memRead (s.latchedSpace b) i.toNat
  else .error (.refused .rxNotOwned)

/-- The latched buffer of bus `b` given back: `full` cleared, nothing else written (R199). -/
def State.release (s : State) (b : Bus) : State := s.setRx b { s.rx b with full := false }

/-- `RX.TAKE` (R200): the frame copied, then the buffer released. -/
def takeFrame (b : Bus) (s : State) : Except Stop (List U8 × State) :=
  if s.owned b then
    match s.readBytes (s.latchedSpace b) 0 (s.rx b).flen.toNat with
    | .error e => .error e
    | .ok frame => .ok (frame, s.release b)
  else .error (.refused .rxNotOwned)

/-! ## The meanings -/

/-- `RX.BYTE b, v` (R192). -/
def execRxByte (b : Bus) (v : U8) (s : State) : Answer :=
  toAnswer (match receiveByte b v s with
    | .error e => .error e
    | .ok s1 => .ok (s1.finish .none))

/-- `RX.EOF b` (R194, R195). -/
def execRxEof (b : Bus) (s : State) : Answer :=
  .next ((endOfFrame b s).finish .none)

/-- `SIG.WAIT` (R197). Where it does not complete the consumer stays suspended in it (log entry 13). -/
def execSigWait (s : State) : Answer :=
  .next (match s.waitSignal with
    | (some o, s1) => (s1.withCtl .ready).finish (.wait o)
    | (none, s1) => (s1.withCtl .waiting).finish .pending)

/-- `RX.RD b, i` (R198). -/
def execRxRd (b : Bus) (i : U8) (s : State) : Answer :=
  toAnswer (match readLatched b i s with
    | .error e => .error e
    | .ok v => .ok (s.finish (.byte v)))

/-- `RX.REL b` (R199). -/
def execRxRel (b : Bus) (s : State) : Answer :=
  if s.owned b then .next ((s.release b).finish .none)
  else .refused .rxNotOwned

/-- `RX.TAKE b` (R200). -/
def execRxTake (b : Bus) (s : State) : Answer :=
  toAnswer (match takeFrame b s with
    | .error e => .error e
    | .ok (frame, s1) => .ok (s1.finish (.taken frame)))

end Sys2Proof.Machine
end

