-- ==== Sys2Proof/Machine/RegisterAccess.lean ====
section
/-! DEFINITION. Frame Codec B (42_register_access.md): stateless, a whole raw frame at a time (R170). -/

namespace Sys2Proof.Machine

/-- `RA.DEC` (R171): the length is tested first, then the CRC-8 of all bytes but the last (R172). -/
def raDecode (frame : List U8) : RaOutcome :=
  match frame with
  | [addr, crc] =>
    if crc8 crc8SeedFrame [addr] ≠ crc then .frameError .badCrc else .ok (.read addr)
  | [addr, b3, b2, b1, b0, crc] =>
    if crc8 crc8SeedFrame [addr, b3, b2, b1, b0] ≠ crc then .frameError .badCrc
    else .ok (.write addr (word b3 b2 b1 b0))
  | _ => .frameError .badLength

/-- `RA.DEC frame` (R171). -/
def execRaDec (frame : List U8) (s : State) : Answer :=
  .next (s.finish (.ra (raDecode frame)))

/-- `RA.ENC addr, value` (R175). -/
def execRaEnc (addr : U8) (value : U32) (s : State) : Answer :=
  .next (s.finish (.frame (raEncode addr value)))

end Sys2Proof.Machine
end

