-- ==== Sys2Proof/Machine/Sequencer.lean ====
section
/-! DEFINITION. The Dispatch sequencer (44_dispatch.md): the two paths of a raw frame, `DSP.SVC` and `DSP.STEP`. -/

namespace Sys2Proof.Machine

/-! ## The paths of a raw frame -/

/-- A decode failure is logged and dropped (R227). -/
def State.logFailure (s : State) (b : Bus) (cause : DecodeCause) : State :=
  s.emit (.log (.decodeFailure b cause))

/-- A register error is logged (R223). -/
def State.logRegister (s : State) (b : Bus) (addr : U8) (cause : RegCause) : State :=
  s.emit (.log (.registerError b addr cause))

/-- A READ: one `RegRead`, then the response or a log (R223). -/
def serveRead (b : Bus) (a : U8) (s : State) : State :=
  match s.regRead a with
  | (.ok v, s1) => s1.emit (.send b (raEncode a v))
  | (.notFound, s1) => s1.logRegister b a .notFound

/-- A WRITE: one `RegWrite`, then the response if `WRITE_ACK[b]`, or a log (R223). -/
def serveWrite (b : Bus) (a : U8) (v : U32) (s : State) : State :=
  match s.regWrite a v with
  | (.ok, s1) => if writeAckOf s1.cfg b then s1.emit (.send b (raEncode a v)) else s1
  | (.writeError, s1) => s1.logRegister b a .writeError

/-- The path of a bus with the Register-Access codec (R223). -/
def registerPath (b : Bus) (frame : List U8) (s : State) : State :=
  match raDecode frame with
  | .frameError k => s.logFailure b (.frameError k)
  | .ok (.read a) => serveRead b a s
  | .ok (.write a v) => serveWrite b a v s

/-- After the register call of a READY packet: a log if it failed, then the response `AP_RESP` gives, if any (R226). -/
def answerPacket (b : Bus) (p : Packet) (op : RegOp) (r : RegAnswer) (s : State) : State :=
  let s1 := match regFailureCause r with
    | none => s
    | some cause => s.logRegister b (regAddr op) cause
  match graphAt s.cfg.apResp (p, r) with
  | none => s1
  | some bytes => s1.emit (.send b bytes)

/-- A READY packet: reported upward, then the register operation `AP_REGOP` gives, if any (R226). -/
def servePacket (b : Bus) (p : Packet) (s : State) : State :=
  let s1 := s.emit (.packetReady b p)
  match graphAt s.cfg.apRegop p with
  | none => s1
  | some op =>
    match s1.regCall op with
    | (r, s2) => answerPacket b p op r s2

/-- What the sequencer does with one outcome of `AP.DEC` (R226). -/
def actOnOutcome (b : Bus) (o : ApOutcome) (s : State) : State :=
  match o with
  | .notReady => s
  | .ready p => servePacket b p s
  | .invalid => s.logFailure b .invalid
  | .wrongAddress => s.logFailure b .wrongAddress
  | .error => s.logFailure b .error

/-- The path of a bus with the Addressed-Packet codec: one byte at a time, in index order, every outcome acted on as it
appears, the cursor kept between raw frames (R226). -/
def packetPath (b : Bus) : List U8 → State → Except Stop State
  | [], s => .ok s
  | byte :: rest, s =>
    match apDecodeByte b byte s with
    | .error e => .error e
    | .ok (o, s1) => packetPath b rest (actOnOutcome b o s1)

/-- A raw frame of bus `b` decoded with that bus's codec and acted on (R222). -/
def serveFrame (b : Bus) (frame : List U8) (s : State) : Except Stop State :=
  match codecOf s.cfg b with
  | .ra => .ok (registerPath b frame s)
  | .ap => packetPath b frame s

/-! ## One turn of the loop -/

/-- The services a mask asks for, in one of the two orders (R221). -/
def servicesOf (m : BitVec 2) (ascending : Bool) : List Bus :=
  let up := (if m.getLsbD 0 then [Bus.bus0] else []) ++ (if m.getLsbD 1 then [Bus.bus1] else [])
  if ascending then up else up.reverse

/-- The services after `Signalled(m)`; an order is chosen only where both bits are set (R221, ND2). -/
def State.oweServices (s : State) (m : BitVec 2) : State :=
  if m = 3#2 then
    match s.drawAscending with
    | (up, s1) => s1.withCtl (.serving (servicesOf m up))
  else s.withCtl (.serving (servicesOf m true))

/-- After `Timeout`: the warning (R221, R231). -/
def State.timeoutTurn (s : State) : State := (s.withCtl .ready).emit (.log .noCommandReceived)

/-! ## The meanings -/

/-- `DSP.STEP` (R221): the wait, and the services it leaves owed. The turn is not atomic: each service is a later move of
the consumer (the step takes it from `ctl`), and producer operations may come between (log entry 15). -/
def execDspStep (s : State) : Answer :=
  .next (match s.waitSignal with
    | (some .timeout, s1) => s1.timeoutTurn.finish .none
    | (some (.signalled m), s1) => (s1.oweServices m).finish .none
    | (none, s1) => (s1.withCtl .stepping).finish .pending)

/-- `DSP.SVC b` (R222): the frame taken, the buffer released, then the frame served. -/
def execDspSvc (b : Bus) (s : State) : Answer :=
  toAnswer (match takeFrame b s with
    | .error e => .error e
    | .ok (frame, s1) =>
      match serveFrame b frame s1 with
      | .error e => .error e
      | .ok s2 => .ok (s2.finish .none))

end Sys2Proof.Machine
end

