-- ==== Sys2Proof/Machine/Frames.lean ====
section
/-! DEFINITION. The frame rows of the opcode table (30_encoding.md R97). DESIGN CHOICE (log entry 1): a frame toward the
block means what the Dispatch sequencer does with a raw frame of exactly these bytes on its bus, decoded with that bus's
codec, whichever it is (R95); a frame from the block means that the block sends it. -/

namespace Sys2Proof.Machine

/-- A frame received whole on bus `b`, served as a raw frame (44_dispatch.md R222). -/
def serveWire (b : Bus) (bytes : List U8) (s : State) : Answer :=
  toAnswer (match serveFrame b bytes s with
    | .error e => .error e
    | .ok s1 => .ok (s1.finish .none))

/-- A frame of TYPE 1 (R84). -/
def execApData (b : Bus) (src dst : U8) (payload : List U8) (crc : U16) (s : State) : Answer :=
  serveWire b (apFrameBytes src dst 1#8 payload crc) s

/-- A frame of TYPE 2 (R84). -/
def execApDataAck (b : Bus) (src dst : U8) (payload : List U8) (crc : U16) (s : State) : Answer :=
  serveWire b (apFrameBytes src dst 2#8 payload crc) s

/-- A frame of TYPE 3 (R84). -/
def execApCmd (b : Bus) (src dst : U8) (payload : List U8) (crc : U16) (s : State) : Answer :=
  serveWire b (apFrameBytes src dst 3#8 payload crc) s

/-- A frame of TYPE 4 (R84). -/
def execApCmdAck (b : Bus) (src dst : U8) (payload : List U8) (crc : U16) (s : State) : Answer :=
  serveWire b (apFrameBytes src dst 4#8 payload crc) s

/-- A frame of TYPE 5 (R84). -/
def execApAck (b : Bus) (src dst : U8) (payload : List U8) (crc : U16) (s : State) : Answer :=
  serveWire b (apFrameBytes src dst 5#8 payload crc) s

/-- A frame of TYPE 6 (R84). -/
def execApNack (b : Bus) (src dst : U8) (payload : List U8) (crc : U16) (s : State) : Answer :=
  serveWire b (apFrameBytes src dst 6#8 payload crc) s

/-- A read request (R88). -/
def execRaRead (b : Bus) (addr crc : U8) (s : State) : Answer :=
  serveWire b (raReadBytes addr crc) s

/-- A write request (R89). -/
def execRaWrite (b : Bus) (addr : U8) (value : U32) (crc : U8) (s : State) : Answer :=
  serveWire b (raWriteBytes addr value crc) s

/-- A read response leaving the block (R89): the request to send it (44_dispatch.md R228). -/
def execRaResp (b : Bus) (addr : U8) (value : U32) (s : State) : Answer :=
  .next ((s.emit (.send b (raEncode addr value))).finish .none)

end Sys2Proof.Machine
end

