-- ==== Sys2Proof/Machine/Dispatch.lean ====
section
/-! DEFINITION. The meaning of every instruction, one arm per constructor. -/

namespace Sys2Proof.Machine

def exec (i : Instr) (s : State) : Host.Outcome State Fault Refusal :=
  match i with
  | .crc16 seed data => Sys2Proof.Machine.execCrc16 seed data s
  | .crc8 seed data => Sys2Proof.Machine.execCrc8 seed data s
  | .apDec b byte => Sys2Proof.Machine.execApDec b byte s
  | .apRst b => Sys2Proof.Machine.execApRst b s
  | .apEnc src dst typ payload => Sys2Proof.Machine.execApEnc src dst typ payload s
  | .apMkpkt payload dest typ => Sys2Proof.Machine.execApMkpkt payload dest typ s
  | .apMkcmd cmd dest ack => Sys2Proof.Machine.execApMkcmd cmd dest ack s
  | .apMkack dest => Sys2Proof.Machine.execApMkack dest s
  | .apMknack dest => Sys2Proof.Machine.execApMknack dest s
  | .raDec frame => Sys2Proof.Machine.execRaDec frame s
  | .raEnc addr value => Sys2Proof.Machine.execRaEnc addr value s
  | .rxByte b v => Sys2Proof.Machine.execRxByte b v s
  | .rxEof b => Sys2Proof.Machine.execRxEof b s
  | .sigWait => Sys2Proof.Machine.execSigWait s
  | .rxRd b n => Sys2Proof.Machine.execRxRd b n s
  | .rxRel b => Sys2Proof.Machine.execRxRel b s
  | .rxTake b => Sys2Proof.Machine.execRxTake b s
  | .dspStep => Sys2Proof.Machine.execDspStep s
  | .dspSvc b => Sys2Proof.Machine.execDspSvc b s
  | .apData b src dst payload crc => Sys2Proof.Machine.execApData b src dst payload crc s
  | .apDataAck b src dst payload crc => Sys2Proof.Machine.execApDataAck b src dst payload crc s
  | .apCmd b src dst payload crc => Sys2Proof.Machine.execApCmd b src dst payload crc s
  | .apCmdAck b src dst payload crc => Sys2Proof.Machine.execApCmdAck b src dst payload crc s
  | .apAck b src dst payload crc => Sys2Proof.Machine.execApAck b src dst payload crc s
  | .apNack b src dst payload crc => Sys2Proof.Machine.execApNack b src dst payload crc s
  | .raRead b addr crc => Sys2Proof.Machine.execRaRead b addr crc s
  | .raWrite b addr value crc => Sys2Proof.Machine.execRaWrite b addr value crc s
  | .raResp b addr value => Sys2Proof.Machine.execRaResp b addr value s

end Sys2Proof.Machine
end

