-- ==== Sys2Proof/Machine/Schedule.lean ====
section
/-! DEFINITION. Who moves, and what a move runs. An execution is a sequence of operations of the three agents (20_memory.md
R60, R61); State lists the moves to come and, for each agent, what it issues in its own order (R62; log entry 11). -/

namespace Sys2Proof.Machine

/-! ## What an agent issues -/

/-- The requests an agent has still to issue, oldest first. -/
def State.queue (s : State) : Agent → List Request
  | .producer .bus0 => s.queue0
  | .producer .bus1 => s.queue1
  | .consumer => s.queueC

/-- The requests of an agent replaced. -/
def State.setQueue (s : State) (a : Agent) (q : List Request) : State :=
  match a with
  | .producer .bus0 => { s with queue0 := q }
  | .producer .bus1 => { s with queue1 := q }
  | .consumer => { s with queueC := q }

/-- The moves still to come replaced. -/
def State.withSched (s : State) (ms : List Move) : State := { s with sched := ms }

/-- Whether an agent may issue an instruction (60_exceptions.md R262). The pure operations are every agent's; a producer
has the two operations of its own bus; all else is the consumer's, the frames too, which the sequencer serves. -/
def mayIssue (a : Agent) (i : Instr) : Bool :=
  match i with
  | .crc16 _ _ => true
  | .crc8 _ _ => true
  | .apDec _ _ => a == .consumer
  | .apRst _ => a == .consumer
  | .apEnc _ _ _ _ => true
  | .apMkpkt _ _ _ => true
  | .apMkcmd _ _ _ => true
  | .apMkack _ => true
  | .apMknack _ => true
  | .raDec _ => true
  | .raEnc _ _ => true
  | .rxByte b _ => a == .producer b
  | .rxEof b => a == .producer b
  | .sigWait => a == .consumer
  | .rxRd _ _ => a == .consumer
  | .rxRel _ => a == .consumer
  | .rxTake _ => a == .consumer
  | .dspStep => a == .consumer
  | .dspSvc _ => a == .consumer
  | .apData _ _ _ _ _ => a == .consumer
  | .apDataAck _ _ _ _ _ => a == .consumer
  | .apCmd _ _ _ _ _ => a == .consumer
  | .apCmdAck _ _ _ _ _ => a == .consumer
  | .apAck _ _ _ _ _ => a == .consumer
  | .apNack _ _ _ _ _ => a == .consumer
  | .raRead _ _ _ => a == .consumer
  | .raWrite _ _ _ _ => a == .consumer
  | .raResp _ _ _ => a == .consumer

/-- The agent that issues an instruction placed from outside: the producer of its bus, else the consumer. -/
def issuerOf (i : Instr) : Agent :=
  match i with
  | .rxByte b _ => .producer b
  | .rxEof b => .producer b
  | .crc16 _ _ | .crc8 _ _ | .apDec _ _ | .apRst _ | .apEnc _ _ _ _ | .apMkpkt _ _ _ | .apMkcmd _ _ _ | .apMkack _
  | .apMknack _ | .raDec _ | .raEnc _ _ | .sigWait | .rxRd _ _ | .rxRel _ | .rxTake _ | .dspStep | .dspSvc _
  | .apData _ _ _ _ _ | .apDataAck _ _ _ _ _ | .apCmd _ _ _ _ _ | .apCmdAck _ _ _ _ _ | .apAck _ _ _ _ _
  | .apNack _ _ _ _ _ | .raRead _ _ _ | .raWrite _ _ _ _ | .raResp _ _ _ => .consumer

/-- What a bus layer delivers at one instant, as the producer's requests: the byte first, then the end of frame
(43_receiver_handshake.md R204). -/
def busInstant (b : Bus) (byte : Option U8) (eof : Bool) : List Request :=
  (match byte with
    | none => []
    | some v => [encode (.rxByte b v)])
  ++ (if eof then [encode (.rxEof b)] else [])

/-! ## Moves -/

/-- A request decoded, held against the agent's context, and run. -/
def runRequest (a : Agent) (r : Request) (s : State) : Answer :=
  match decode r with
  | .error e => .refused (.undecodable e)
  | .ok i => if mayIssue a i then exec i s else .refused .wrongContext

/-- A move of producer `b`: the next event of its bus, if there is one (R191). -/
def producerMove (b : Bus) (s : State) : Answer :=
  match s.queue (.producer b) with
  | [] => .next s
  | r :: rest => runRequest (.producer b) r (s.setQueue (.producer b) rest)

/-- A move of the consumer: it goes on with the operation it is in (a wait is looked at again, R197; an owed service is
done, R221); between two operations it issues the next of its requests, and with none listed it takes the next turn of its
loop, `DSP.STEP` (R221: "the loop is `DSP.STEP` repeated for ever"; log entry 12). -/
def consumerMove (s : State) : Answer :=
  match s.ctl with
  | .waiting => exec .sigWait (s.withCtl .ready)
  | .stepping => exec .dspStep (s.withCtl .ready)
  | .serving [] => .next (s.withCtl .ready)
  | .serving [b] => exec (.dspSvc b) (s.withCtl .ready)
  | .serving (b :: rest) => exec (.dspSvc b) (s.withCtl (.serving rest))
  | .ready =>
    match s.queueC with
    | [] => exec .dspStep s
    | r :: rest => runRequest .consumer r (s.setQueue .consumer rest)

/-- The environment's reset of the whole block (70_reset_and_hazards.md R280, R281; 44_dispatch.md R232): every state
element at its reset value and the consumer at the start of its loop. The parameters stay (R8), and so do the inputs still
to come and the record of what was emitted, which are the environment's (log entry 18). -/
def blockReset (s : State) : State :=
  { s with
    ap0 := ApDec.reset
    ap1 := ApDec.reset
    rx0 := RxChan.reset
    rx1 := RxChan.reset
    ctl := .ready
    result := .none }

/-- One move. -/
def runMove (m : Move) (s : State) : Answer :=
  match m with
  | .reset => .next (blockReset s)
  | .agent (.producer b) => producerMove b s
  | .agent .consumer => consumerMove s

/-- The next move of the execution; with none listed nobody moves and nothing changes (log entry 12). -/
def nextMove (s : State) : Answer :=
  match s.sched with
  | [] => .next s
  | m :: rest => runMove m (s.withSched rest)

/-! ## Placing an instruction -/

/-- A request placed so that the very next move is the agent's and issues it: at the head of the agent's requests, the
agent at the head of the moves, the consumer between two operations. -/
def placeRequest (a : Agent) (r : Request) (s : State) : State :=
  let s1 := s.setQueue a (r :: s.queue a)
  let s2 := s1.withSched (.agent a :: s1.sched)
  if a = .consumer then s2.withCtl .ready else s2

/-- The row's word placed for the agent whose instruction it is; a word that is no instruction is placed for the consumer. -/
def placeWord (s : State) (nbits w : Nat) : State :=
  match tableRequest nbits w with
  | none => placeRequest .consumer ⟨.op, []⟩ s
  | some r =>
    match decode r with
    | .ok i => placeRequest (issuerOf i) r s
    | .error _ => placeRequest .consumer r s

end Sys2Proof.Machine
end

