-- ==== Sys2Proof/Safety.lean ====
section
/-! DEFINITION. What counts as a good state and a good run, in the terms the statements use: the invariants of 10_state.md
R35 and 41_addressed_packet.md R147 with the store facts of R28 that they rest on, and short runs of operations. -/

namespace Sys2Proof.Machine

/-! ## Good states -/

/-- Every byte of a store below index `n` has been written. -/
abbrev Memory.WrittenBelow (m : Memory) (n : Nat) : Prop := ∀ i, i < n → (m.read i).isSome = true

/-- No listed index is at or past the size of the store. -/
def Memory.inside (m : Memory) (size : Nat) : Bool := m.all (fun c => decide (c.1 < size))

/-- A store in its canonical form, inside its space. -/
abbrev Memory.Good (m : Memory) (size : Nat) : Prop := m.wf = true ∧ m.inside size = true

/-- A decoder instance as the operations keep it (R147): the position is legal for the length, every payload byte of the
frame in progress that has gone by is written (R28), and the destination flag is set only after the destination byte of a
frame in `CONSUME` mode (R26). -/
abbrev ApDec.Sound (p : Params) (d : ApDec) : Prop :=
  d.payload.Good apMaxPayload ∧
  (d.pos.toNat ≤ 3 ∨ (d.len.toNat ≤ 248 ∧ d.pos.toNat ≤ 6 + d.len.toNat)) ∧
  d.payload.WrittenBelow (min (d.pos.toNat - 5) d.len.toNat) ∧
  (d.dstBad = true → 3 ≤ d.pos.toNat ∧ p.wrongAddrMode = .consume)

/-- A receiver channel as the operations keep it (R35), with the bytes of both its frames written (R28). -/
abbrev RxChan.Sound (p : Params) (c : RxChan) : Prop :=
  c.buf0.Good p.rxCap.toNat ∧ c.buf1.Good p.rxCap.toNat ∧
  c.cur.toNat ≤ p.rxCap.toNat ∧
  (c.sig = true → c.full = true) ∧
  (c.full = true → c.flen.toNat ≤ p.rxCap.toNat) ∧
  c.fill.WrittenBelow c.cur.toNat ∧
  (c.full = true → c.latched.WrittenBelow c.flen.toNat)

/-- The services the consumer still owes. -/
def Ctl.todo : Ctl → List Bus
  | .serving bs => bs
  | .ready => []
  | .waiting => []
  | .stepping => []

/-- The invariant of the block: the parameters are in range, both decoders and both channels are sound, and every service
the consumer owes is of a frame it owns, none owed twice (44_dispatch.md R222). -/
abbrev State.Inv (s : State) : Prop :=
  s.cfg.rxCap ≠ 0#8 ∧
  s.ap0.Sound s.cfg ∧ s.ap1.Sound s.cfg ∧
  s.rx0.Sound s.cfg ∧ s.rx1.Sound s.cfg ∧
  s.ctl ≠ .serving [] ∧ s.ctl.todo.Nodup ∧ (∀ b ∈ s.ctl.todo, s.owned b = true)

/-! ## What is held in a channel -/

/-- The latched buffer of bus `b` holds exactly the raw frame `frame` (R30, R194). -/
abbrev State.HoldsFrame (s : State) (b : Bus) (frame : List U8) : Prop :=
  (s.rx b).flen.toNat = frame.length ∧ frame.length ≤ s.cfg.rxCap.toNat ∧
  ∀ i, i < frame.length → (s.rx b).latched.read i = frame[i]?

/-- `PAYLOAD[b]` holds `payload` in its first bytes. -/
abbrev State.HoldsPayload (s : State) (b : Bus) (payload : List U8) : Prop :=
  (s.ap b).len.toNat = payload.length ∧ payload.length ≤ apMaxPayload ∧
  ∀ i, i < payload.length → (s.ap b).payload.read i = payload[i]?

/-- A channel with both its buffers, but for the value of `full`: what `RX.REL` leaves (R199). -/
def RxChan.released (c : RxChan) : RxChan := { c with full := false }

/-! ## Short runs -/

/-- The operations in order, each on the state the one before left. -/
def execAll : List Instr → State → Answer
  | [], s => .next s
  | i :: rest, s =>
    match exec i s with
    | .next t => execAll rest t
    | .fault f => .fault f
    | .refused r => .refused r

/-- The bytes given to `AP.DEC` one at a time: the outcomes in order and the last state, or none where one stops. -/
def feedAp (b : Bus) : List U8 → State → Option (List ApOutcome × State)
  | [], s => some ([], s)
  | byte :: rest, s =>
    match exec (.apDec b byte) s with
    | .next t =>
      match t.result, feedAp b rest t with
      | .ap o, some (os, u) => some (o :: os, u)
      | _, _ => none
    | .fault _ => none
    | .refused _ => none

/-- The operations of the two producers. -/
def isProducerOp : Instr → Bool
  | .rxByte _ _ => true
  | .rxEof _ => true
  | .crc16 _ _ | .crc8 _ _ | .apDec _ _ | .apRst _ | .apEnc _ _ _ _ | .apMkpkt _ _ _ | .apMkcmd _ _ _ | .apMkack _
  | .apMknack _ | .raDec _ | .raEnc _ _ | .sigWait | .rxRd _ _ | .rxRel _ | .rxTake _ | .dspStep | .dspSvc _
  | .apData _ _ _ _ _ | .apDataAck _ _ _ _ _ | .apCmd _ _ _ _ _ | .apCmdAck _ _ _ _ _ | .apAck _ _ _ _ _
  | .apNack _ _ _ _ _ | .raRead _ _ _ | .raWrite _ _ _ _ | .raResp _ _ _ => false

/-- The bus an event names, if it names one. -/
def eventBus : Event → Option Bus
  | .wake b => some b
  | .rxDropped b => some b
  | .send b _ => some b
  | .log .noCommandReceived => none
  | .log (.decodeFailure b _) => some b
  | .log (.registerError b _ _) => some b
  | .packetReady b _ => some b

/-! ## What a service of an Addressed-Packet bus leaves (44_dispatch.md R226) -/

/-- The log of an outcome that is an error (R226, R227). -/
def failureLog (b : Bus) : ApOutcome → Option Event
  | .invalid => some (.log (.decodeFailure b .invalid))
  | .wrongAddress => some (.log (.decodeFailure b .wrongAddress))
  | .error => some (.log (.decodeFailure b .error))
  | .notReady => none
  | .ready _ => none

/-- The register operation `AP_REGOP` names for an outcome; only a READY packet has one (R226). -/
def outcomeRegop (p : Params) : ApOutcome → Option RegOp
  | .ready packet => p.apRegop.lookup packet
  | .notReady => none
  | .invalid => none
  | .wrongAddress => none
  | .error => none

/-- The operation of a register call. -/
def RegCall.op : RegCall → RegOp
  | .read a _ => .read a
  | .write a v _ => .write a v

/-- The answer of a register call. -/
def RegCall.answer : RegCall → RegAnswer
  | .read _ r => .read r
  | .write _ _ r => .write r

/-- The answer of a `RegRead`. -/
def RegCall.readAnswer : RegCall → Option ReadAnswer
  | .read _ r => some r
  | .write _ _ _ => none

/-- The answer of a `RegWrite`. -/
def RegCall.writeAnswer : RegCall → Option WriteAnswer
  | .read _ _ => none
  | .write _ _ r => some r

/-- The log of a register call that failed (R223, R226). -/
def callLog (b : Bus) : RegCall → List Event
  | .read _ (.ok _) => []
  | .read a .notFound => [.log (.registerError b a .notFound)]
  | .write _ _ .ok => []
  | .write a _ .writeError => [.log (.registerError b a .writeError)]

/-- The response `AP_RESP` gives to a packet and the register table's answer, if any (R226). -/
def responseOf (p : Params) (b : Bus) (packet : Packet) (answer : RegAnswer) : List Event :=
  match p.apResp.lookup (packet, answer) with
  | none => []
  | some bytes => [.send b bytes]

/-- The events of a raw frame whose bytes gave these outcomes, with these register calls made for its packets, in order
(R226). -/
def packetEvents (p : Params) (b : Bus) : List ApOutcome → List RegCall → List Event
  | [], _ => []
  | .ready packet :: os, calls =>
    match p.apRegop.lookup packet, calls with
    | none, calls => .packetReady b packet :: packetEvents p b os calls
    | some _, [] => .packetReady b packet :: packetEvents p b os []
    | some _, c :: calls =>
      .packetReady b packet :: (callLog b c ++ responseOf p b packet c.answer ++ packetEvents p b os calls)
  | .notReady :: os, calls => packetEvents p b os calls
  | .invalid :: os, calls => .log (.decodeFailure b .invalid) :: packetEvents p b os calls
  | .wrongAddress :: os, calls => .log (.decodeFailure b .wrongAddress) :: packetEvents p b os calls
  | .error :: os, calls => .log (.decodeFailure b .error) :: packetEvents p b os calls

/-- `answers` were drawn from the `listed` inputs: the listed ones first, in order, and `rest` is what is left of them. -/
abbrev DrawnFrom {α : Type} (answers listed rest : List α) : Prop :=
  answers.take listed.length = listed.take answers.length ∧ rest = listed.drop answers.length

/-- The answers of `calls` were drawn from the inputs of `e`, and `e'` is what is left of them; the other inputs stay. -/
abbrev CallsDrawnFrom (calls : List RegCall) (e e' : Env) : Prop :=
  DrawnFrom (calls.filterMap RegCall.readAnswer) e.reads e'.reads ∧
  DrawnFrom (calls.filterMap RegCall.writeAnswer) e.writes e'.writes ∧
  e'.timeouts = e.timeouts ∧ e'.orders = e.orders

/-- `t` is what the path R226 leaves of `s` for a raw frame of bus `b` whose bytes gave the outcomes `os` and left the
decoder instance `d`: one register call for each READY packet that `AP_REGOP` maps to an operation, in order, with the
register table's answers; the events R226 gives; the instance as the decoder left it; nothing else. -/
abbrev State.ServesOutcomes (s : State) (b : Bus) (os : List ApOutcome) (d : ApDec) (t : State) : Prop :=
  ∃ (calls : List RegCall) (e : Env),
    calls.map RegCall.op = os.filterMap (outcomeRegop s.cfg) ∧
    CallsDrawnFrom calls s.env e ∧
    t = { s.setAp b d with
      env := e, result := .none, calls := s.calls ++ calls, events := s.events ++ packetEvents s.cfg b os calls }

/-! ## Frames as the wire has them -/

/-- The checksum of an Addressed Packet (30_encoding.md R85). -/
def frameCrc16 (p : Params) (src dst typ : U8) (payload : List U8) : U16 :=
  crc16 p.crc16Reflect 0x0000#16 ([src, dst, BitVec.ofNat 8 payload.length, typ] ++ payload)

/-- The six Addressed-Packet rows with one set of operands, each with its TYPE code and the type it names (R84, R144). -/
def apRows (b : Bus) (src dst : U8) (payload : List U8) (crc : U16) : List (Instr × U8 × PacketType) :=
  [(.apData b src dst payload crc, 1#8, .data), (.apDataAck b src dst payload crc, 2#8, .dataAck),
   (.apCmd b src dst payload crc, 3#8, .command), (.apCmdAck b src dst payload crc, 4#8, .commandAck),
   (.apAck b src dst payload crc, 5#8, .ack), (.apNack b src dst payload crc, 6#8, .nack)]

end Sys2Proof.Machine
end

