-- ==== Sys2Proof/Certificates/Slice0/Obligations.lean ====
section
/-! DEFINITION. The statements for the provers. -/

open Sys2Proof Sys2Proof.Machine

/-! ## Encoding -/

/-- Decoding an encoded instruction gives it back, with every operand at every value (layouts of R81, R88, R89, codes of
R96; the operand layout of the operations is the model's choice, log entry 2). -/
def Obligations.DecodeOfEncodeGivesTheInstruction : Prop :=
  ∀ i : Instr, WellFormed i = true → decode (encode i) = .ok i

/-- A request that decodes is the one request of its instruction, and the instruction is well formed (log entry 2). -/
def Obligations.EncodeOfDecodeGivesTheRequest : Prop :=
  ∀ (r : Request) (i : Instr), decode r = .ok i → WellFormed i = true ∧ encode i = r

/-- Words written out from R81, R88, R89 and R96 decode to the instructions they stand for. -/
def Obligations.SpelledOutWordsDecode : Prop :=
  decode ⟨.op, [0b000000#8, 0x12#8, 0x34#8, 0xAB#8]⟩ = .ok (.crc16 0x1234#16 [0xAB#8]) ∧
  decode ⟨.op, [0b001000#8, 0#8, 0x7E#8]⟩ = .ok (.apDec .bus0 0x7E#8) ∧
  decode ⟨.op, [0b011000#8, 1#8, 0x10#8]⟩ = .ok (.rxByte .bus1 0x10#8) ∧
  decode ⟨.op, [0b100000#8]⟩ = .ok .dspStep ∧
  decode ⟨.frameIn .bus0, [0x7E#8, 0x02#8, 0x01#8, 0x00#8, 0x05#8, 0x34#8, 0x07#8]⟩
    = .ok (.apAck .bus0 0x02#8 0x01#8 [] 0x3407#16) ∧
  decode ⟨.frameIn .bus1, [0x10#8, 0x70#8]⟩ = .ok (.raRead .bus1 0x10#8 0x70#8) ∧
  decode ⟨.frameIn .bus1, [0x10#8, 0xDE#8, 0xAD#8, 0xBE#8, 0xEF#8, 0xF8#8]⟩
    = .ok (.raWrite .bus1 0x10#8 0xDEADBEEF#32 0xF8#8)

/-- Reserved TYPE codes (0, 7 to 255) are explicit everywhere: `type_of` gives the six codes their names and every other code
UNKNOWN (R144), and a frame that carries one
names no row of the table and is rejected by name (the model's choice, log entries 3 and 23). -/
def Obligations.ReservedTypesAreExplicit : Prop :=
  typeOf 1#8 = .data ∧ typeOf 2#8 = .dataAck ∧ typeOf 3#8 = .command ∧ typeOf 4#8 = .commandAck ∧
  typeOf 5#8 = .ack ∧ typeOf 6#8 = .nack ∧
  (∀ t : U8, t.toNat < 1 ∨ 6 < t.toNat → typeOf t = .unknown t) ∧
  (∀ (b : Bus) (src dst typ : U8) (payload : List U8) (crc : U16),
    payload.length ≤ 248 → typ.toNat < 1 ∨ 6 < typ.toNat →
    decode ⟨.frameIn b, apFrameBytes src dst typ payload crc⟩ = .error (.reservedType typ))

/-! ## The step -/

/-- A step runs the decoded instruction: the agent at the head of the moves issues the request at the head of its queue. The
step takes the move and the request, decodes, and is `exec` of the instruction (R60, R62; the moves and queues are the
model's own, log entry 11). -/
def Obligations.StepRunsTheDecodedInstruction : Prop :=
  ∀ (s : State) (a : Agent) (r : Request) (rest : List Request) (ms : List Move) (i : Instr),
    s.sched = .agent a :: ms → s.queue a = r :: rest → (a = .consumer → s.ctl = .ready) →
    decode r = .ok i → WellFormed i = true → mayIssue a i = true →
    step s = exec i ((s.withSched ms).setQueue a rest)

/-- Moves that issue no request. Inside an operation that is not atomic the consumer goes on with it: a wait is looked at
again, the next owed service is done (log entries 13 and 15); with no request listed it takes the next turn of its loop
(R197, R221). With nobody listed to move, or a producer with no event, nothing else changes (the model's convention, log entry 12). -/
def Obligations.MovesWithoutARequest : Prop :=
  (∀ (s : State) (ms : List Move), s.sched = .agent .consumer :: ms →
    (s.ctl = .waiting → step s = exec .sigWait ((s.withSched ms).withCtl .ready)) ∧
    (s.ctl = .stepping → step s = exec .dspStep ((s.withSched ms).withCtl .ready)) ∧
    (∀ b, s.ctl = .serving [b] → step s = exec (.dspSvc b) ((s.withSched ms).withCtl .ready)) ∧
    (∀ b c bs, s.ctl = .serving (b :: c :: bs) →
      step s = exec (.dspSvc b) ((s.withSched ms).withCtl (.serving (c :: bs)))) ∧
    (s.ctl = .ready → s.queueC = [] → step s = exec .dspStep (s.withSched ms))) ∧
  (∀ s : State, s.sched = [] → step s = .next s) ∧
  (∀ (s : State) (b : Bus) (ms : List Move), s.sched = .agent (.producer b) :: ms → s.queue (.producer b) = [] →
    step s = .next (s.withSched ms))

/-- A row's word placed in a state is what the very next step runs; for a producer's word nothing else has changed, for the
consumer's word the consumer stands between two operations (log entries 3 and 11: the model's own convention). -/
def Obligations.PlacedWordIsTheNextStep : Prop :=
  ∀ (s : State) (nbits w : Nat) (i : Instr), decodeTableWord nbits w = some i →
    step (s.withFetchWord nbits w) = exec i (if issuerOf i = .consumer then s.withCtl .ready else s)

/-- An operation issued from a context that R262 does not allow is refused. Every agent may issue the pure operations (R61,
R262); a producer may issue the two operations of its own bus too and no other, the consumer all but those. That the step
makes the check is the model's choice (log entry 21). -/
def Obligations.WrongContextIsRefused : Prop :=
  (∀ (s : State) (a : Agent) (r : Request) (rest : List Request) (ms : List Move) (i : Instr),
    s.sched = .agent a :: ms → s.queue a = r :: rest → (a = .consumer → s.ctl = .ready) →
    decode r = .ok i → mayIssue a i = false → step s = .refused .wrongContext) ∧
  (∀ (a : Agent) (b : Bus) (v : U8), mayIssue a (.rxByte b v) = true ↔ a = .producer b) ∧
  (∀ (a : Agent) (b : Bus), mayIssue a (.rxEof b) = true ↔ a = .producer b) ∧
  (∀ (b c : Bus) (v : U8), ∀ i ∈ [Instr.apDec c v, .apRst c, .sigWait, .rxRd c v, .rxRel c, .rxTake c, .dspStep, .dspSvc c],
    mayIssue (.producer b) i = false ∧ mayIssue .consumer i = true) ∧
  (∀ (a : Agent) (seed16 : U16) (seed8 src dst typ cmd addr : U8) (ack : Bool) (value : U32) (bytes : List U8),
    ∀ i ∈ [Instr.crc16 seed16 bytes, .crc8 seed8 bytes, .apEnc src dst typ bytes, .apMkpkt bytes dst typ,
      .apMkcmd cmd dst ack, .apMkack dst, .apMknack dst, .raDec bytes, .raEnc addr value], mayIssue a i = true)

/-! ## Reset and the invariant -/

/-- What reset leaves, for any parameters and either bus: the cursors, the flags and the selector at 0 (R42). -/
def Obligations.ResetLeavesCursorsAndFlagsClear : Prop :=
  ∀ (p : Params) (b : Bus),
    ((State.resetWith p).ap b).pos = 0#8 ∧ ((State.resetWith p).ap b).dstBad = false ∧
    ((State.resetWith p).rx b).cur = 0#8 ∧ ((State.resetWith p).rx b).wsel = .buf0 ∧
    ((State.resetWith p).rx b).full = false ∧ ((State.resetWith p).rx b).sig = false

/-- A reset of the whole block at any moment puts every state element in its reset value and changes no parameter
(R280, R281, R8). The values the spec leaves unspecified are the model's (log entries 8 and 9), and that a reset move keeps
the parameters and the moves to come is its choice (log entry 18). -/
def Obligations.ResetMoveResetsTheWholeBlock : Prop :=
  ∀ (s : State) (ms : List Move), s.sched = .reset :: ms →
    ∃ t, step s = .next t ∧ t.cfg = s.cfg ∧ t.sched = ms ∧
      ∀ b, t.ap b = (State.resetWith s.cfg).ap b ∧ t.rx b = (State.resetWith s.cfg).rx b

/-- The invariant holds right after reset, whatever the parameters in range. -/
def Obligations.InvariantHoldsAtReset : Prop :=
  ∀ p : Params, p.rxCap ≠ 0#8 → (State.resetWith p).Inv

/-- Every step keeps the invariant: the position of each decoder is legal for its length (R147), a signal implies a full
buffer and the cursors stay inside the buffers (R35), the stores keep their form, and the services owed are of frames the
consumer owns (R222). -/
def Obligations.EveryStepKeepsTheInvariant : Prop :=
  ∀ s t : State, s.Inv → step s = .next t → t.Inv

/-- From a state of the invariant no step faults: no byte is read before it is written and none outside its store (R28,
R50; that such a read would fault is the model's choice, log entry 9). -/
def Obligations.NoStepFaultsUnderTheInvariant : Prop :=
  ∀ (s : State) (f : Fault), s.Inv → step s ≠ .fault f

/-- A service the consumer owes after its wait is never refused (R222). -/
def Obligations.OwedServiceIsNeverRefused : Prop :=
  ∀ (s : State) (ms : List Move) (b : Bus) (bs : List Bus),
    s.Inv → s.sched = .agent .consumer :: ms → s.ctl = .serving (b :: bs) → ∃ t, step s = .next t

/-- No operation changes a parameter, and no step does (R8); an operation only adds to the events and calls on record (the
model's records, log entry 17). -/
def Obligations.ParametersAreConstantAndRecordsGrow : Prop :=
  (∀ (i : Instr) (s t : State), exec i s = .next t →
    t.cfg = s.cfg ∧ (∃ es, t.events = s.events ++ es) ∧ (∃ cs, t.calls = s.calls ++ cs)) ∧
  (∀ s t : State, step s = .next t → t.cfg = s.cfg)

/-! ## CRC engines -/

/-- `CRC16` completes in every state, returns the fold of the byte step over the data and changes nothing else; the empty
sequence returns the seed, the operation chains, zeros with seed 0 give 0, and the worked example (R112). -/
def Obligations.Crc16ReturnsTheChecksum : Prop :=
  (∀ (seed : U16) (data : List U8) (s : State),
    exec (.crc16 seed data) s = .next (s.finish (.crc16
      (data.foldl (fun c b => if s.cfg.crc16Reflect then crc16Step c b else crc16StepMsb c b) seed)))) ∧
  (∀ (reflect : Bool) (seed : U16), crc16 reflect seed [] = seed) ∧
  (∀ (reflect : Bool) (seed : U16) (a b : List U8),
    crc16 reflect seed (a ++ b) = crc16 reflect (crc16 reflect seed a) b) ∧
  (∀ (reflect : Bool) (n : Nat), crc16 reflect 0#16 (List.replicate n 0#8) = 0#16) ∧
  crc16 true 0#16 [0x02#8, 0x01#8, 0x00#8, 0x05#8] = 0x3407#16

/-- `CRC8` completes in every state, returns the fold of the byte step and changes nothing else; the empty sequence returns
the seed, the operation chains, zeros with seed 0 give 0, a sequence followed by its own CRC-8 gives 0, and the worked
example (R117). -/
def Obligations.Crc8ReturnsTheChecksum : Prop :=
  (∀ (seed : U8) (data : List U8) (s : State),
    exec (.crc8 seed data) s = .next (s.finish (.crc8 (data.foldl crc8Step seed)))) ∧
  (∀ seed : U8, crc8 seed [] = seed) ∧
  (∀ (seed : U8) (a b : List U8), crc8 seed (a ++ b) = crc8 (crc8 seed a) b) ∧
  (∀ n : Nat, crc8 0#8 (List.replicate n 0#8) = 0#8) ∧
  (∀ a : List U8, crc8 0#8 (a ++ [crc8 0#8 a]) = 0#8) ∧
  crc8 0#8 [0x10#8, 0xDE#8, 0xAD#8, 0xBE#8, 0xEF#8] = 0xF8#8

/-- The two CRC-16 forms are bit reversals of each other, byte by byte (R111, R113: "bit-reversed"). -/
def Obligations.ReflectedCrc16IsTheBitReversal : Prop :=
  ∀ c b, crc16Step (BitVec.reverse c) (BitVec.reverse b) = BitVec.reverse (crc16StepMsb c b)

/-- Both CRC functions are linear over exclusive-or for inputs of one length (R120). -/
def Obligations.CrcsAreLinear : Prop :=
  (∀ (reflect : Bool) (s1 s2 : U16) (d1 d2 : List U8), d1.length = d2.length →
    crc16 reflect s1 d1 ^^^ crc16 reflect s2 d2
      = crc16 reflect (s1 ^^^ s2) (List.zipWith (fun x y => x ^^^ y) d1 d2)) ∧
  (∀ (s1 s2 : U8) (d1 d2 : List U8), d1.length = d2.length →
    crc8 s1 d1 ^^^ crc8 s2 d2 = crc8 (s1 ^^^ s2) (List.zipWith (fun x y => x ^^^ y) d1 d2))

/-- The CRC with seed 0 of a sequence with exactly one non-zero byte is never 0 (R120). -/
def Obligations.CrcOfOneNonzeroByteIsNotZero : Prop :=
  ∀ (m n : Nat) (v : U8), v ≠ 0#8 →
    (∀ reflect : Bool,
      crc16 reflect 0#16 (List.replicate m 0#8 ++ [v] ++ List.replicate n 0#8) ≠ 0#16) ∧
    crc8 0#8 (List.replicate m 0#8 ++ [v] ++ List.replicate n 0#8) ≠ 0#8

/-- A byte step is one look-up in a table of 256 entries `step(0, i)`, and the first eight entries are those R121 lists. -/
def Obligations.CrcByteStepsAreTableLookups : Prop :=
  (∀ (c : U16) (b : U8), crc16Step c b = (c >>> 8) ^^^ crc16Step 0#16 (loByte c ^^^ b)) ∧
  (∀ (c : U16) (b : U8), crc16StepMsb c b = (c <<< 8) ^^^ crc16StepMsb 0#16 (hiByte c ^^^ b)) ∧
  (∀ c b : U8, crc8Step c b = crc8Step 0#8 (c ^^^ b)) ∧
  [0#8, 1#8, 2#8, 3#8, 4#8, 5#8, 6#8, 7#8].map (crc8Step 0#8)
    = [0x00#8, 0x07#8, 0x0E#8, 0x09#8, 0x1C#8, 0x1B#8, 0x12#8, 0x15#8] ∧
  [0#8, 1#8, 2#8, 3#8, 4#8, 5#8, 6#8, 7#8].map (crc16Step 0#16)
    = [0x0000#16, 0x1189#16, 0x2312#16, 0x329B#16, 0x4624#16, 0x57AD#16, 0x6536#16, 0x74BF#16] ∧
  [0#8, 1#8, 2#8, 3#8, 4#8, 5#8, 6#8, 7#8].map (crc16StepMsb 0#16)
    = [0x0000#16, 0x1021#16, 0x2042#16, 0x3063#16, 0x4084#16, 0x50A5#16, 0x60C6#16, 0x70E7#16]

/-! ## The Addressed-Packet decoder, arm by arm -/

/-- The START byte (R133): 0x7E moves the cursor to 1 and clears the destination flag; any other byte is INVALID and writes
nothing. -/
def Obligations.ApDecStartByte : Prop :=
  ∀ (s : State) (b : Bus) (byte : U8), codecOf s.cfg b = .ap → (s.ap b).pos = 0#8 →
    exec (.apDec b byte) s = .next (
      if byte = 0x7E#8 then (s.setAp b { s.ap b with pos := 1#8, dstBad := false }).finish (.ap .notReady)
      else s.finish (.ap .invalid))

/-- The SRC byte and the TYPE byte are stored unchecked and the cursor advances (R134, R138). -/
def Obligations.ApDecSourceAndTypeBytes : Prop :=
  (∀ (s : State) (b : Bus) (byte : U8), codecOf s.cfg b = .ap → (s.ap b).pos = 1#8 →
    exec (.apDec b byte) s = .next ((s.setAp b { s.ap b with src := byte, pos := 2#8 }).finish (.ap .notReady))) ∧
  (∀ (s : State) (b : Bus) (byte : U8), codecOf s.cfg b = .ap → (s.ap b).pos = 4#8 →
    exec (.apDec b byte) s = .next ((s.setAp b { s.ap b with typ := byte, pos := 5#8 }).finish (.ap .notReady)))

/-- The DST byte is stored. In `CONSUME` mode the cursor advances and a mismatch is remembered in the flag (R135); in
`IMMEDIATE` mode a mismatch resets the cursor and is WRONG_ADDRESS (R136). -/
def Obligations.ApDecDestinationByte : Prop :=
  (∀ (s : State) (b : Bus) (byte : U8), codecOf s.cfg b = .ap → (s.ap b).pos = 2#8 → s.cfg.wrongAddrMode = .consume →
    exec (.apDec b byte) s = .next ((s.setAp b { s.ap b with
      dst := byte, pos := 3#8, dstBad := if byte = s.cfg.nodeAddr then (s.ap b).dstBad else true }).finish
        (.ap .notReady))) ∧
  (∀ (s : State) (b : Bus) (byte : U8), codecOf s.cfg b = .ap → (s.ap b).pos = 2#8 → s.cfg.wrongAddrMode = .immediate →
    exec (.apDec b byte) s = .next (
      if byte = s.cfg.nodeAddr then (s.setAp b { s.ap b with dst := byte, pos := 3#8 }).finish (.ap .notReady)
      else (s.setAp b { s.ap b with dst := byte, pos := 0#8, dstBad := false }).finish (.ap .wrongAddress)))

/-- The LEN byte: above 248 it is INVALID, resets the cursor and is not stored, else it is stored (R137). -/
def Obligations.ApDecLengthByte : Prop :=
  ∀ (s : State) (b : Bus) (byte : U8), codecOf s.cfg b = .ap → (s.ap b).pos = 3#8 →
    exec (.apDec b byte) s = .next (
      if byte.toNat > 248 then (s.setAp b { s.ap b with pos := 0#8, dstBad := false }).finish (.ap .invalid)
      else (s.setAp b { s.ap b with len := byte, pos := 4#8 }).finish (.ap .notReady))

/-- A payload byte is stored at index `pos` - 5 and nowhere else, and the cursor advances (R139). The checksum high byte goes
to bits 15:8 of the received checksum, bits 7:0 are cleared, and the cursor advances (R140). -/
def Obligations.ApDecPayloadAndChecksumHighBytes : Prop :=
  (∀ (s : State) (b : Bus) (byte : U8), codecOf s.cfg b = .ap →
    5 ≤ (s.ap b).pos.toNat → (s.ap b).pos.toNat ≤ 4 + (s.ap b).len.toNat → (s.ap b).len.toNat ≤ 248 →
    ∃ m : Memory,
      exec (.apDec b byte) s
        = .next ((s.setAp b { s.ap b with payload := m, pos := (s.ap b).pos + 1#8 }).finish (.ap .notReady)) ∧
      m.read ((s.ap b).pos.toNat - 5) = some byte ∧
      ∀ j, j ≠ (s.ap b).pos.toNat - 5 → m.read j = (s.ap b).payload.read j) ∧
  (∀ (s : State) (b : Bus) (byte : U8), codecOf s.cfg b = .ap →
    (s.ap b).pos.toNat = 5 + (s.ap b).len.toNat →
    exec (.apDec b byte) s = .next ((s.setAp b { s.ap b with
      crcRx := byte ++ 0x00#8, pos := (s.ap b).pos + 1#8 }).finish (.ap .notReady)))

/-- The checksum low byte ends the frame: the checksum is assembled, the cursor reset, and the outcome is INVALID on a
mismatch, else WRONG_ADDRESS if the destination was foreign, else READY with the packet (R141). -/
def Obligations.ApDecChecksumLowByte : Prop :=
  ∀ (s : State) (b : Bus) (byte : U8) (payload : List U8), codecOf s.cfg b = .ap →
    (s.ap b).pos.toNat = 6 + (s.ap b).len.toNat → s.HoldsPayload b payload →
    exec (.apDec b byte) s = .next ((s.setAp b { s.ap b with
        crcRx := hiByte (s.ap b).crcRx ++ byte, pos := 0#8, dstBad := false }).finish (.ap (
      if crc16 s.cfg.crc16Reflect 0x0000#16
          ([(s.ap b).src, (s.ap b).dst, (s.ap b).len, (s.ap b).typ] ++ payload) ≠ hiByte (s.ap b).crcRx ++ byte then .invalid
      else if (s.ap b).dstBad then .wrongAddress
      else .ready ⟨(s.ap b).src, (s.ap b).dst, (s.ap b).len, (s.ap b).typ, payload, hiByte (s.ap b).crcRx ++ byte⟩)))

/-- A position past the expected end is ERROR and resets the cursor (R142). -/
def Obligations.ApDecBeyondTheEnd : Prop :=
  ∀ (s : State) (b : Bus) (byte : U8), codecOf s.cfg b = .ap →
    6 + (s.ap b).len.toNat < (s.ap b).pos.toNat →
    exec (.apDec b byte) s = .next ((s.setAp b { s.ap b with pos := 0#8, dstBad := false }).finish (.ap .error))

/-! ## The Addressed-Packet decoder as a whole -/

/-- On a sound instance `AP.DEC` completes for every byte, and ERROR is not among the outcomes (R131, R147). -/
def Obligations.ApDecCompletesOnSoundInstances : Prop :=
  ∀ (s : State) (b : Bus) (byte : U8), codecOf s.cfg b = .ap → (s.ap b).Sound s.cfg →
    ∃ t o, exec (.apDec b byte) s = .next t ∧ t.result = .ap o ∧ o ≠ .error ∧ (t.ap b).Sound t.cfg

/-- Every terminal outcome leaves the cursor at AWAIT_START (R132). -/
def Obligations.TerminalOutcomesResetTheCursor : Prop :=
  ∀ (s t : State) (b : Bus) (byte : U8) (o : ApOutcome), exec (.apDec b byte) s = .next t → t.result = .ap o →
    o ≠ .notReady → (t.ap b).pos = 0#8

/-- `AP.DEC` on one bus writes its own instance and its outcome and nothing else, and what it writes depends on the
parameters and that instance alone (R22). -/
def Obligations.ApDecTouchesItsInstanceOnly : Prop :=
  (∀ (s t : State) (b : Bus) (byte : U8), exec (.apDec b byte) s = .next t →
    t = (s.setAp b (t.ap b)).finish t.result) ∧
  (∀ (s s' t : State) (b : Bus) (byte : U8), s'.cfg = s.cfg → s'.ap b = s.ap b → exec (.apDec b byte) s = .next t →
    ∃ t', exec (.apDec b byte) s' = .next t' ∧ t'.ap b = t.ap b ∧ t'.result = t.result)

/-- `AP.RST` resets the cursor and leaves every other field and every other part of the state as it is (R148). On a bus whose
codec is not the Addressed-Packet one the instance does not exist and `AP.RST` and `AP.DEC` are refused (R247). -/
def Obligations.ApRstResetsTheCursorOnly : Prop :=
  (∀ (s : State) (b : Bus), codecOf s.cfg b = .ap →
    exec (.apRst b) s = .next ((s.setAp b { s.ap b with pos := 0#8, dstBad := false }).finish .none)) ∧
  (∀ (s : State) (b : Bus) (byte : U8), codecOf s.cfg b ≠ .ap →
    exec (.apDec b byte) s = .refused .wrongCodec ∧ exec (.apRst b) s = .refused .wrongCodec)

/-- A well-formed frame fed to a decoder at AWAIT_START in `CONSUME` mode gives NOT_READY for every byte but the last, and
then INVALID, WRONG_ADDRESS or READY by its checksum and destination; the decoder is at AWAIT_START afterwards. In
`IMMEDIATE` mode the same holds of a frame for this node (R145). -/
def Obligations.WellFormedFrameGivesOneTerminalOutcome : Prop :=
  ∀ (s : State) (b : Bus) (src dst typ : U8) (payload : List U8) (crc : U16),
    codecOf s.cfg b = .ap → s.cfg.wrongAddrMode = .consume ∨ dst = s.cfg.nodeAddr → (s.ap b).pos = 0#8 →
    payload.length ≤ 248 →
    ∃ u, feedAp b ([0x7E#8, src, dst, BitVec.ofNat 8 payload.length, typ] ++ payload ++ [hiByte crc, loByte crc]) s
        = some (List.replicate (6 + payload.length) .notReady ++ [
            if frameCrc16 s.cfg src dst typ payload ≠ crc then .invalid
            else if dst ≠ s.cfg.nodeAddr then .wrongAddress
            else .ready ⟨src, dst, BitVec.ofNat 8 payload.length, typ, payload, crc⟩], u) ∧
      (u.ap b).pos = 0#8

/-- Round trip, in both address modes: the bytes `AP.ENC` returns for a packet to this node decode to its fields, NOT_READY
6 + n times and then READY (R156). -/
def Obligations.EncodedPacketDecodesToItsFields : Prop :=
  ∀ (s : State) (b : Bus) (src typ : U8) (payload : List U8),
    codecOf s.cfg b = .ap → (s.ap b).pos = 0#8 → 1 ≤ typ.toNat → typ.toNat ≤ 6 → payload.length ≤ 248 →
    ∃ t bytes u, exec (.apEnc src s.cfg.nodeAddr typ payload) s = .next t ∧ t.result = .frame bytes ∧
      feedAp b bytes t = some (List.replicate (6 + payload.length) .notReady ++
        [.ready ⟨src, s.cfg.nodeAddr, BitVec.ofNat 8 payload.length, typ, payload,
          frameCrc16 s.cfg src s.cfg.nodeAddr typ payload⟩], u)

/-- Corrupting one byte among SRC, DST, TYPE and the payload of a valid frame for this node gives INVALID at its last byte
and never READY; for DST this is said of `CONSUME` mode (R157, R120). -/
def Obligations.OneCorruptedByteIsInvalid : Prop :=
  ∀ (s : State) (b : Bus) (src typ v : U8) (payload bytes : List U8) (k : Nat),
    codecOf s.cfg b = .ap → (s.ap b).pos = 0#8 →
    apEncode s.cfg src s.cfg.nodeAddr typ payload = .ok bytes →
    1 ≤ k → k < 5 + payload.length → k ≠ 3 → (k = 2 → s.cfg.wrongAddrMode = .consume) → bytes[k]? ≠ some v →
    ∃ u, feedAp b (bytes.set k v) s
      = some (List.replicate (6 + payload.length) .notReady ++ [.invalid], u)

/-! ## The Addressed-Packet encoder -/

/-- `AP.ENC` completes on every legal payload and type, in every state, returns the frame and changes nothing else (R150); a
payload over 248 bytes, then a type outside 1 to 6, is refused, by `AP.MKPKT` too (R151). -/
def Obligations.ApEncReturnsTheFrame : Prop :=
  (∀ (s : State) (src dst typ : U8) (payload : List U8), payload.length ≤ 248 → 1 ≤ typ.toNat → typ.toNat ≤ 6 →
    exec (.apEnc src dst typ payload) s = .next (s.finish (.frame
      ([0x7E#8, src, dst, BitVec.ofNat 8 payload.length, typ] ++ payload ++
        [hiByte (frameCrc16 s.cfg src dst typ payload), loByte (frameCrc16 s.cfg src dst typ payload)])))) ∧
  (∀ (s : State) (src dst typ : U8) (payload : List U8), 248 < payload.length →
    exec (.apEnc src dst typ payload) s = .refused .encTooLong ∧
    exec (.apMkpkt payload dst typ) s = .refused .encTooLong) ∧
  (∀ (s : State) (src dst typ : U8) (payload : List U8), payload.length ≤ 248 → typ.toNat < 1 ∨ 6 < typ.toNat →
    exec (.apEnc src dst typ payload) s = .refused .encBadType ∧
    exec (.apMkpkt payload dst typ) s = .refused .encBadType)

/-- The helpers fix the source address to this node's: `AP.MKPKT` is `AP.ENC` from it, and completes where that does;
`AP.MKCMD`, `AP.MKACK` and `AP.MKNACK` complete in every state (R152 to R155). -/
def Obligations.HelpersEncodeFromThisNode : Prop :=
  (∀ (s : State) (payload : List U8) (dest typ : U8),
    exec (.apMkpkt payload dest typ) s = exec (.apEnc s.cfg.nodeAddr dest typ payload) s) ∧
  (∀ (s : State) (payload : List U8) (dest typ : U8), payload.length ≤ 248 → 1 ≤ typ.toNat → typ.toNat ≤ 6 →
    ∃ bytes, apEncode s.cfg s.cfg.nodeAddr dest typ payload = .ok bytes ∧ bytes.length = 7 + payload.length ∧
      exec (.apMkpkt payload dest typ) s = .next (s.finish (.frame bytes))) ∧
  (∀ (s : State) (cmd dest : U8) (ack : Bool),
    exec (.apMkcmd cmd dest ack) s = exec (.apEnc s.cfg.nodeAddr dest (if ack then 4#8 else 3#8) [cmd]) s ∧
    ∃ bytes, bytes.length = 8 ∧ exec (.apMkcmd cmd dest ack) s = .next (s.finish (.frame bytes))) ∧
  (∀ (s : State) (dest : U8),
    exec (.apMkack dest) s = exec (.apEnc s.cfg.nodeAddr dest 5#8 []) s ∧
    exec (.apMknack dest) s = exec (.apEnc s.cfg.nodeAddr dest 6#8 []) s ∧
    (∃ bytes, bytes.length = 7 ∧ exec (.apMkack dest) s = .next (s.finish (.frame bytes))) ∧
    (∃ bytes, bytes.length = 7 ∧ exec (.apMknack dest) s = .next (s.finish (.frame bytes))))

/-! ## The Register-Access codec -/

/-- `RA.DEC` completes on every frame in every state and changes nothing but the outcome: 2 bytes are a READ and 6 a WRITE
if the last byte is the CRC-8 of the others, any other length is BAD_LENGTH, above `RX_CAP` too (R171, R172; log entry 22). -/
def Obligations.RaDecClassifiesEveryFrame : Prop :=
  (∀ (s : State) (addr crc : U8), exec (.raDec [addr, crc]) s = .next (s.finish (.ra (
    if crc8 0x00#8 [addr] ≠ crc then .frameError .badCrc else .ok (.read addr))))) ∧
  (∀ (s : State) (addr b3 b2 b1 b0 crc : U8), exec (.raDec [addr, b3, b2, b1, b0, crc]) s = .next (s.finish (.ra (
    if crc8 0x00#8 [addr, b3, b2, b1, b0] ≠ crc then .frameError .badCrc
    else .ok (.write addr (b3 ++ b2 ++ b1 ++ b0)))))) ∧
  (∀ (s : State) (frame : List U8), frame.length ≠ 2 → frame.length ≠ 6 →
    exec (.raDec frame) s = .next (s.finish (.ra (.frameError .badLength))))

/-- `RA.ENC` completes in every state and returns the address, the value most significant byte first, and the CRC-8 of the
five (R175). -/
def Obligations.RaEncReturnsTheResponse : Prop :=
  ∀ (s : State) (addr : U8) (value : U32),
    let body := [addr, value.extractLsb' 24 8, value.extractLsb' 16 8, value.extractLsb' 8 8, value.extractLsb' 0 8]
    exec (.raEnc addr value) s = .next (s.finish (.frame (body ++ [crc8 0x00#8 body])))

/-- Round trip of the Register-Access codec (R176). -/
def Obligations.RegisterFramesRoundTrip : Prop :=
  (∀ (s : State) (addr : U8) (value : U32), ∃ t frame,
    exec (.raEnc addr value) s = .next t ∧ t.result = .frame frame ∧
    exec (.raDec frame) t = .next (t.finish (.ra (.ok (.write addr value))))) ∧
  (∀ (s : State) (addr : U8),
    exec (.raDec [addr, crc8 0#8 [addr]]) s = .next (s.finish (.ra (.ok (.read addr)))))

/-! ## The receiver -/

/-- `RX.BYTE` stores the byte in the fill buffer at the cursor, or at 0 when the buffer is full, sets the cursor one past it,
and changes nothing else (R192); with `RX_CAP` out of range it is refused (93 F8, log entry 20). -/
def Obligations.RxByteStoresAtTheCursor : Prop :=
  (∀ (s : State) (b : Bus) (v : U8), s.cfg.rxCap ≠ 0#8 → (s.rx b).cur.toNat ≤ s.cfg.rxCap.toNat →
    ∃ c : RxChan, exec (.rxByte b v) s = .next ((s.setRx b c).finish .none) ∧
      c.cur = (if (s.rx b).cur = s.cfg.rxCap then 0#8 else (s.rx b).cur) + 1#8 ∧
      c.wsel = (s.rx b).wsel ∧ c.flen = (s.rx b).flen ∧ c.full = (s.rx b).full ∧ c.sig = (s.rx b).sig ∧
      c.latched = (s.rx b).latched ∧
      c.fill.read (if (s.rx b).cur = s.cfg.rxCap then 0 else (s.rx b).cur.toNat) = some v ∧
      ∀ j, j ≠ (if (s.rx b).cur = s.cfg.rxCap then 0 else (s.rx b).cur.toNat) → c.fill.read j = (s.rx b).fill.read j) ∧
  (∀ (s : State) (b : Bus) (v : U8), s.cfg.rxCap = 0#8 → exec (.rxByte b v) s = .refused .badParameter)

/-- After m bytes since the last end of frame the cursor is m, or ((m - 1) mod `RX_CAP`) + 1 once the buffer has wrapped
(R193). -/
def Obligations.ReceiveCursorWrapsAtCapacity : Prop :=
  ∀ (s : State) (b : Bus) (bytes : List U8), s.cfg.rxCap ≠ 0#8 → (s.rx b).cur = 0#8 →
    ∃ t, execAll (bytes.map (Instr.rxByte b)) s = .next t ∧
      (t.rx b).cur.toNat = (if bytes.length ≤ s.cfg.rxCap.toNat then bytes.length
        else (bytes.length - 1) % s.cfg.rxCap.toNat + 1)

/-- `RX.EOF` completes in every state: with `full` = 0 it hands the frame off, six effects in one step (R194); with `full` = 1
it drops the new frame, clears the cursor and emits the event (R195); nothing else changes. -/
def Obligations.RxEofHandsOffOrDrops : Prop :=
  (∀ (s : State) (b : Bus), (s.rx b).full = false →
    exec (.rxEof b) s = .next (((s.setRx b { s.rx b with
      flen := (s.rx b).cur, wsel := (s.rx b).wsel.other, full := true, sig := true, cur := 0#8 }).emit
        (.wake b)).finish .none)) ∧
  (∀ (s : State) (b : Bus), (s.rx b).full = true →
    exec (.rxEof b) s = .next (((s.setRx b { s.rx b with cur := 0#8 }).emit (.rxDropped b)).finish .none))

/-- `SIG.WAIT` completes at once in every state with a bit set: it returns the whole mask, bit b for bus b, and clears both
bits, `full` and all else as they were (R197, R34). With no bit set it either returns Timeout or does not complete yet, as the
next free choice says, and no element of the block changes (R197, R263; the form of the choice and of the suspension is the
model's, log entry 13). -/
def Obligations.SigWaitReturnsTheBitsOrWaits : Prop :=
  (∀ s : State, s.rx0.sig = true ∨ s.rx1.sig = true →
    ∃ m : BitVec 2, m ≠ 0#2 ∧ m.getLsbD 0 = s.rx0.sig ∧ m.getLsbD 1 = s.rx1.sig ∧
      exec .sigWait s = .next { s with
        rx0 := { s.rx0 with sig := false }, rx1 := { s.rx1 with sig := false }, ctl := .ready,
        result := .wait (.signalled m) }) ∧
  (∀ s : State, s.rx0.sig = false → s.rx1.sig = false →
    (∃ e, exec .sigWait s = .next { s with env := e, ctl := .ready, result := .wait .timeout } ∨
      exec .sigWait s = .next { s with env := e, ctl := .waiting, result := .pending }) ∧
    (∀ ts, s.env.timeouts = true :: ts → exec .sigWait s
      = .next { s with env := { s.env with timeouts := ts }, ctl := .ready, result := .wait .timeout }) ∧
    (∀ ts, s.env.timeouts = false :: ts → exec .sigWait s
      = .next { s with env := { s.env with timeouts := ts }, ctl := .waiting, result := .pending }))

/-- `RX.RD` of an owned latched frame returns its byte and writes nothing else; outside ownership or past the length it is
refused by name (R198). -/
def Obligations.RxRdReadsTheLatchedByte : Prop :=
  (∀ (s : State) (b : Bus) (i : U8) (frame : List U8) (v : U8),
    (s.rx b).full = true → (s.rx b).sig = false → s.HoldsFrame b frame → frame[i.toNat]? = some v →
    exec (.rxRd b i) s = .next (s.finish (.byte v))) ∧
  (∀ (s : State) (b : Bus) (i : U8), (s.rx b).full = false ∨ (s.rx b).sig = true →
    exec (.rxRd b i) s = .refused .rxNotOwned) ∧
  (∀ (s : State) (b : Bus) (i : U8), (s.rx b).full = true → (s.rx b).sig = false → (s.rx b).flen.toNat ≤ i.toNat →
    exec (.rxRd b i) s = .refused .rxIndex)

/-- `RX.REL` of an owned buffer clears `full` and nothing else; outside ownership it is refused (R199). -/
def Obligations.RxRelReleasesTheBuffer : Prop :=
  (∀ (s : State) (b : Bus), (s.rx b).full = true → (s.rx b).sig = false →
    exec (.rxRel b) s = .next ((s.setRx b { s.rx b with full := false }).finish .none)) ∧
  (∀ (s : State) (b : Bus), (s.rx b).full = false ∨ (s.rx b).sig = true →
    exec (.rxRel b) s = .refused .rxNotOwned)

/-- `RX.TAKE` of an owned buffer returns the frame and clears `full`, nothing else; outside ownership it is refused; and it
equals the reads of every index followed by the release (R200). -/
def Obligations.RxTakeCopiesAndReleases : Prop :=
  (∀ (s : State) (b : Bus) (frame : List U8), (s.rx b).full = true → (s.rx b).sig = false → s.HoldsFrame b frame →
    exec (.rxTake b) s = .next ((s.setRx b { s.rx b with full := false }).finish (.taken frame)) ∧
    (∀ (i : U8) (v : U8), frame[i.toNat]? = some v → exec (.rxRd b i) s = .next (s.finish (.byte v))) ∧
    exec (.rxRel b) s = .next ((s.setRx b { s.rx b with full := false }).finish .none)) ∧
  (∀ (s : State) (b : Bus), (s.rx b).full = false ∨ (s.rx b).sig = true →
    exec (.rxTake b) s = .refused .rxNotOwned)

/-- What is taken is what was received: bytes received after an end of frame, an end of frame into a free channel, then any
operations of the two producers, then the wait and the copy: the wait returns, and the copy returns those bytes in order
(R203, R64). -/
def Obligations.TakenFrameIsWhatWasReceived : Prop :=
  ∀ (s : State) (b : Bus) (bytes : List U8) (later : List Instr), s.Inv →
    (s.rx b).cur = 0#8 → (s.rx b).full = false → bytes.length ≤ s.cfg.rxCap.toNat →
    (∀ i ∈ later, isProducerOp i = true) →
    ∃ t u w, execAll (bytes.map (Instr.rxByte b) ++ [.rxEof b] ++ later) s = .next t ∧
      exec .sigWait t = .next u ∧ exec (.rxTake b) u = .next w ∧ w.result = .taken bytes

/-- The bytes of a buffer at and past `flen` are not observable: whatever the latched buffer holds there, the copy returns
the same frame (R36 b, R203). -/
def Obligations.StaleBytesAreNotObservable : Prop :=
  ∀ (s t : State) (b : Bus) (m : Memory),
    (∀ i, i < (s.rx b).flen.toNat → m.read i = (s.rx b).latched.read i) → exec (.rxTake b) s = .next t →
    ∃ t', exec (.rxTake b) (s.setStore (s.latchedSpace b) m) = .next t' ∧ t'.result = t.result ∧
      (t'.rx b).full = (t.rx b).full

/-- Operations of the two producers commute: either order leaves the same state but for the order of the two buses' events
on record (R63, R37). -/
def Obligations.ProducersOfTheTwoBusesCommute : Prop :=
  ∀ (s : State) (v w : U8), s.Inv →
    ∀ i ∈ [Instr.rxByte .bus0 v, .rxEof .bus0], ∀ j ∈ [Instr.rxByte .bus1 w, .rxEof .bus1],
      ∃ t u, execAll [i, j] s = .next t ∧ execAll [j, i] s = .next u ∧
        u = { t with events := u.events } ∧ u.events.Perm t.events

/-! ## The dispatch sequencer -/

/-- A turn of the loop completes its wait at once in every state with a bit set and owes one service for each bit returned, in
one of the two orders when both are (R221). With no bit set, a wait that times out changes nothing in the block and logs one
warning (R231), and a wait that goes on leaves the consumer suspended in the turn (the form of both is the model's, log entries 13 to 15). -/
def Obligations.DspStepOwesServicesOrWarns : Prop :=
  (∀ s : State, s.rx0.sig = true ∨ s.rx1.sig = true →
    ∃ todo e, exec .dspStep s = .next { s with
        rx0 := { s.rx0 with sig := false }, rx1 := { s.rx1 with sig := false },
        env := e, ctl := .serving todo, result := .none } ∧
      todo.Nodup ∧ (Bus.bus0 ∈ todo ↔ s.rx0.sig = true) ∧ (Bus.bus1 ∈ todo ↔ s.rx1.sig = true) ∧
      (∀ up us, s.rx0.sig = true → s.rx1.sig = true → s.env.orders = up :: us →
        todo = if up then [Bus.bus0, Bus.bus1] else [Bus.bus1, Bus.bus0])) ∧
  (∀ s : State, s.rx0.sig = false → s.rx1.sig = false →
    (∃ e, exec .dspStep s = .next { s with
        env := e, ctl := .ready, result := .none, events := s.events ++ [.log .noCommandReceived] } ∨
      exec .dspStep s = .next { s with env := e, ctl := .stepping, result := .pending }) ∧
    (∀ ts, s.env.timeouts = true :: ts → exec .dspStep s = .next { s with
      env := { s.env with timeouts := ts }, ctl := .ready, result := .none,
      events := s.events ++ [.log .noCommandReceived] }) ∧
    (∀ ts, s.env.timeouts = false :: ts → exec .dspStep s = .next { s with
      env := { s.env with timeouts := ts }, ctl := .stepping, result := .pending }))

/-- Service of a read request (R223): the buffer is released, one `RegRead` is made, and the response is sent, or the
failure logged and nothing sent; nothing else changes. The answer is the register table's, whatever it is (its form in State
is the model's, log entry 16). -/
def Obligations.DspSvcAnswersAReadRequest : Prop :=
  ∀ (s : State) (b : Bus) (addr : U8), codecOf s.cfg b = .ra → (s.rx b).full = true → (s.rx b).sig = false →
    s.HoldsFrame b [addr, crc8 0#8 [addr]] →
    ∃ (answer : ReadAnswer) (e : Env),
      (∀ r rs, s.env.reads = r :: rs → answer = r) ∧
      exec (.dspSvc b) s = .next { s.setRx b (s.rx b).released with
        env := e, result := .none, calls := s.calls ++ [.read addr answer],
        events := s.events ++ [match answer with
          | .ok v => Event.send b (raEncode addr v)
          | .notFound => Event.log (.registerError b addr .notFound)] }

/-- Service of a write request (R223): one `RegWrite` is made; its success is answered only where `WRITE_ACK[b]` says so,
its failure is logged and never answered (the answer's form in State is the model's, log entry 16). -/
def Obligations.DspSvcServesAWriteRequest : Prop :=
  ∀ (s : State) (b : Bus) (addr : U8) (value : U32), codecOf s.cfg b = .ra → (s.rx b).full = true →
    (s.rx b).sig = false → s.HoldsFrame b (raEncode addr value) →
    ∃ (answer : WriteAnswer) (e : Env),
      (∀ r rs, s.env.writes = r :: rs → answer = r) ∧
      exec (.dspSvc b) s = .next { s.setRx b (s.rx b).released with
        env := e, result := .none, calls := s.calls ++ [.write addr value answer],
        events := s.events ++ (match answer with
          | .ok => if writeAckOf s.cfg b then [Event.send b (raEncode addr value)] else []
          | .writeError => [Event.log (.registerError b addr .writeError)]) }

/-- Service of a raw frame that does not decode: only logs, no response, no register call (R227). On a Register-Access bus
it is one log with the kind of the FrameError. On an Addressed-Packet bus it is one log for each INVALID, WRONG_ADDRESS and
ERROR among the outcomes of its bytes, in order, whatever is mapped by `AP_REGOP`, and the decoder instance is left where
the bytes took it (R226). -/
def Obligations.DspSvcDropsAFrameThatDoesNotDecode : Prop :=
  (∀ (s : State) (b : Bus) (frame : List U8) (k : FrameErrorKind), codecOf s.cfg b = .ra → (s.rx b).full = true →
    (s.rx b).sig = false → s.HoldsFrame b frame → raDecode frame = .frameError k →
    exec (.dspSvc b) s = .next (((s.setRx b (s.rx b).released).emit
      (.log (.decodeFailure b (.frameError k)))).finish .none)) ∧
  (∀ (s : State) (b : Bus) (frame : List U8), codecOf s.cfg b = .ap → (s.rx b).full = true →
    (s.rx b).sig = false → s.HoldsFrame b frame → (s.ap b).Sound s.cfg →
    ∃ os u, feedAp b frame s = some (os, u) ∧
      ((∀ packet, ApOutcome.ready packet ∉ os) →
        exec (.dspSvc b) s = .next { (s.setRx b (s.rx b).released).setAp b (u.ap b) with
          result := .none, events := s.events ++ os.filterMap (failureLog b) }))

/-- Service of a whole Addressed Packet for this node on a bus whose decoder is at AWAIT_START (R226): the packet is reported
and the channel released. With no register operation mapped to it by `AP_REGOP` nothing is sent and no register call is
made. With one, exactly that `RegRead` or `RegWrite` is made, a failure is logged, and what `AP_RESP` gives for the packet
and the answer, if anything, is sent (both functions are held as tables, log entry 6; the answer's form, log entry 16). -/
def Obligations.DspSvcReportsAPacket : Prop :=
  ∀ (s : State) (b : Bus) (src typ : U8) (payload : List U8) (packet : Packet), codecOf s.cfg b = .ap →
    (s.ap b).pos = 0#8 → (s.rx b).full = true → (s.rx b).sig = false → payload.length ≤ 248 →
    packet = ⟨src, s.cfg.nodeAddr, BitVec.ofNat 8 payload.length, typ, payload,
      frameCrc16 s.cfg src s.cfg.nodeAddr typ payload⟩ →
    s.HoldsFrame b ([0x7E#8, src, s.cfg.nodeAddr, BitVec.ofNat 8 payload.length, typ] ++ payload ++
      [hiByte packet.crc, loByte packet.crc]) →
    ∃ d : ApDec, d.pos = 0#8 ∧
      (s.cfg.apRegop.lookup packet = none →
        exec (.dspSvc b) s = .next ((((s.setRx b (s.rx b).released).setAp b d).emit
          (.packetReady b packet)).finish .none)) ∧
      (∀ addr, s.cfg.apRegop.lookup packet = some (.read addr) →
        ∃ (answer : ReadAnswer) (e : Env), (∀ r rs, s.env.reads = r :: rs → answer = r) ∧
          exec (.dspSvc b) s = .next { (s.setRx b (s.rx b).released).setAp b d with
            env := e, result := .none, calls := s.calls ++ [.read addr answer],
            events := s.events ++ [.packetReady b packet] ++
              (match answer with
                | .ok _ => []
                | .notFound => [.log (.registerError b addr .notFound)]) ++
              (match s.cfg.apResp.lookup (packet, .read answer) with
                | none => []
                | some bytes => [.send b bytes]) }) ∧
      (∀ addr value, s.cfg.apRegop.lookup packet = some (.write addr value) →
        ∃ (answer : WriteAnswer) (e : Env), (∀ r rs, s.env.writes = r :: rs → answer = r) ∧
          exec (.dspSvc b) s = .next { (s.setRx b (s.rx b).released).setAp b d with
            env := e, result := .none, calls := s.calls ++ [.write addr value answer],
            events := s.events ++ [.packetReady b packet] ++
              (match answer with
                | .ok => []
                | .writeError => [.log (.registerError b addr .writeError)]) ++
              (match s.cfg.apResp.lookup (packet, .write answer) with
                | none => []
                | some bytes => [.send b bytes]) })

/-- Service of any raw frame of an Addressed-Packet bus with a sound decoder (R226): it completes, every outcome of every
byte is acted on as it appears, whether the frame holds no packet, several, or the end or the beginning of one; each
packet mapped by `AP_REGOP` makes its one register call; the cursor is kept where the last byte left it. -/
def Obligations.DspSvcActsOnEveryOutcome : Prop :=
  ∀ (s : State) (b : Bus) (frame : List U8), codecOf s.cfg b = .ap → (s.rx b).full = true → (s.rx b).sig = false →
    s.HoldsFrame b frame → (s.ap b).Sound s.cfg →
    ∃ os u t, feedAp b frame s = some (os, u) ∧ os.length = frame.length ∧ exec (.dspSvc b) s = .next t ∧
      (s.setRx b (s.rx b).released).ServesOutcomes b os (u.ap b) t

/-- Isolation of the buses: a service of one bus leaves the other bus's channel and decoder, the consumer's place, the
moves and the queues as they were, writes no receive buffer, and every event it adds names its own bus (R229, R227). -/
def Obligations.DspSvcLeavesTheOtherBusAlone : Prop :=
  ∀ (s t : State) (b : Bus), exec (.dspSvc b) s = .next t →
    t.rx (otherBus b) = s.rx (otherBus b) ∧ t.ap (otherBus b) = s.ap (otherBus b) ∧
    t.rx b = (s.rx b).released ∧ t.ctl = s.ctl ∧ t.sched = s.sched ∧
    t.queue0 = s.queue0 ∧ t.queue1 = s.queue1 ∧ t.queueC = s.queueC ∧
    ∃ es, t.events = s.events ++ es ∧ ∀ e ∈ es, eventBus e = some b

/-! ## The frame rows -/

/-- Each of the six Addressed-Packet frame rows on a bus with that codec. For this node, with its checksum, a decoder at
AWAIT_START and no register operation mapped to the packet, it completes, the packet carries the row's TYPE and is reported,
and `type_of` gives the row's name. On any sound decoder, with any destination and checksum and any `AP_REGOP`, it completes
and every outcome of its bytes is acted on. That a frame row means its service is the model's choice (log entry 1). -/
def Obligations.ApFrameRowsReportTheirPacket : Prop :=
  (∀ (s : State) (b : Bus) (src : U8) (payload : List U8) (crc : U16), codecOf s.cfg b = .ap → (s.ap b).pos = 0#8 →
    payload.length ≤ 248 →
    ∀ row ∈ apRows b src s.cfg.nodeAddr payload crc, crc = frameCrc16 s.cfg src s.cfg.nodeAddr row.2.1 payload →
      ∃ d : ApDec, d.pos = 0#8 ∧ typeOf row.2.1 = row.2.2 ∧
        (s.cfg.apRegop.lookup ⟨src, s.cfg.nodeAddr, BitVec.ofNat 8 payload.length, row.2.1, payload, crc⟩ = none →
          exec row.1 s = .next (((s.setAp b d).emit (.packetReady b
            ⟨src, s.cfg.nodeAddr, BitVec.ofNat 8 payload.length, row.2.1, payload, crc⟩)).finish .none))) ∧
  (∀ (s : State) (b : Bus) (src dst : U8) (payload : List U8) (crc : U16), codecOf s.cfg b = .ap →
    (s.ap b).Sound s.cfg → ∀ row ∈ apRows b src dst payload crc,
      ∃ os u t, feedAp b ([0x7E#8, src, dst, BitVec.ofNat 8 payload.length, row.2.1] ++ payload ++ [hiByte crc, loByte crc]) s
          = some (os, u) ∧
        exec row.1 s = .next t ∧ s.ServesOutcomes b os (u.ap b) t)

/-- The frame rows `RA.READ` and `RA.WRITE` complete in every state on a Register-Access bus: a good frame makes its one
register call and answers as R223 says, a bad one is logged; the row `RA.RESP` completes in every state and is sent (R89,
R228). That a frame row means its service, or its sending, is the model's choice (log entry 1). -/
def Obligations.RaFrameRowsAreServed : Prop :=
  (∀ (s : State) (b : Bus) (addr crc : U8), codecOf s.cfg b = .ra →
    (crc ≠ crc8 0#8 [addr] → exec (.raRead b addr crc) s
      = .next ((s.emit (.log (.decodeFailure b (.frameError .badCrc)))).finish .none)) ∧
    (crc = crc8 0#8 [addr] → ∃ (answer : ReadAnswer) (e : Env), (∀ r rs, s.env.reads = r :: rs → answer = r) ∧
      exec (.raRead b addr crc) s = .next { s with
        env := e, result := .none, calls := s.calls ++ [.read addr answer],
        events := s.events ++ [match answer with
          | .ok v => Event.send b (raEncode addr v)
          | .notFound => Event.log (.registerError b addr .notFound)] })) ∧
  (∀ (s : State) (b : Bus) (addr : U8) (value : U32) (crc : U8), codecOf s.cfg b = .ra →
    (raWriteBytes addr value crc ≠ raEncode addr value → exec (.raWrite b addr value crc) s
      = .next ((s.emit (.log (.decodeFailure b (.frameError .badCrc)))).finish .none)) ∧
    (raWriteBytes addr value crc = raEncode addr value → ∃ (answer : WriteAnswer) (e : Env),
      (∀ r rs, s.env.writes = r :: rs → answer = r) ∧
      exec (.raWrite b addr value crc) s = .next { s with
        env := e, result := .none, calls := s.calls ++ [.write addr value answer],
        events := s.events ++ (match answer with
          | .ok => if writeAckOf s.cfg b then [Event.send b (raEncode addr value)] else []
          | .writeError => [Event.log (.registerError b addr .writeError)]) })) ∧
  (∀ (s : State) (b : Bus) (addr : U8) (value : U32),
    exec (.raResp b addr value) s = .next ((s.emit (.send b (
      [addr, value.extractLsb' 24 8, value.extractLsb' 16 8, value.extractLsb' 8 8, value.extractLsb' 0 8,
        crc8 0x00#8 [addr, value.extractLsb' 24 8, value.extractLsb' 16 8, value.extractLsb' 8 8,
          value.extractLsb' 0 8]]))).finish .none))

/-- Every received frame row completes on a bus whose decoder is sound, whatever codec the bus has (R95), and leaves the
channels, the other bus's decoder and the parameters as they were. -/
def Obligations.FrameRowsCompleteOnEitherCodec : Prop :=
  ∀ (s : State) (b : Bus) (src dst addr c8 : U8) (payload : List U8) (c16 : U16) (value : U32), (s.ap b).Sound s.cfg →
    ∀ i ∈ (apRows b src dst payload c16).map Prod.fst ++ [.raRead b addr c8, .raWrite b addr value c8],
      ∃ t, exec i s = .next t ∧ t.rx0 = s.rx0 ∧ t.rx1 = s.rx1 ∧ t.cfg = s.cfg ∧
        t.ap (otherBus b) = s.ap (otherBus b) ∧ (t.ap b).Sound t.cfg
end

