-- ==== Sys2Proof/Laws/State.lean ====
section
/-! SUPPORT. The small lemmas of the state updates: for each update, each field it leaves and the field it sets. -/

namespace Sys2Proof.Machine

/-! ## `finish`, `emit`, `withCtl`, `withSched` -/

@[simp] theorem finish_cfg (s : State) (r : Result) : (s.finish r).cfg = s.cfg := rfl
@[simp] theorem finish_ap0 (s : State) (r : Result) : (s.finish r).ap0 = s.ap0 := rfl
@[simp] theorem finish_ap1 (s : State) (r : Result) : (s.finish r).ap1 = s.ap1 := rfl
@[simp] theorem finish_rx0 (s : State) (r : Result) : (s.finish r).rx0 = s.rx0 := rfl
@[simp] theorem finish_rx1 (s : State) (r : Result) : (s.finish r).rx1 = s.rx1 := rfl
@[simp] theorem finish_ctl (s : State) (r : Result) : (s.finish r).ctl = s.ctl := rfl
@[simp] theorem finish_sched (s : State) (r : Result) : (s.finish r).sched = s.sched := rfl
@[simp] theorem finish_queue0 (s : State) (r : Result) : (s.finish r).queue0 = s.queue0 := rfl
@[simp] theorem finish_queue1 (s : State) (r : Result) : (s.finish r).queue1 = s.queue1 := rfl
@[simp] theorem finish_queueC (s : State) (r : Result) : (s.finish r).queueC = s.queueC := rfl
@[simp] theorem finish_env (s : State) (r : Result) : (s.finish r).env = s.env := rfl
@[simp] theorem finish_result (s : State) (r : Result) : (s.finish r).result = r := rfl
@[simp] theorem finish_events (s : State) (r : Result) : (s.finish r).events = s.events := rfl
@[simp] theorem finish_calls (s : State) (r : Result) : (s.finish r).calls = s.calls := rfl

@[simp] theorem emit_cfg (s : State) (e : Event) : (s.emit e).cfg = s.cfg := rfl
@[simp] theorem emit_ap0 (s : State) (e : Event) : (s.emit e).ap0 = s.ap0 := rfl
@[simp] theorem emit_ap1 (s : State) (e : Event) : (s.emit e).ap1 = s.ap1 := rfl
@[simp] theorem emit_rx0 (s : State) (e : Event) : (s.emit e).rx0 = s.rx0 := rfl
@[simp] theorem emit_rx1 (s : State) (e : Event) : (s.emit e).rx1 = s.rx1 := rfl
@[simp] theorem emit_ctl (s : State) (e : Event) : (s.emit e).ctl = s.ctl := rfl
@[simp] theorem emit_sched (s : State) (e : Event) : (s.emit e).sched = s.sched := rfl
@[simp] theorem emit_queue0 (s : State) (e : Event) : (s.emit e).queue0 = s.queue0 := rfl
@[simp] theorem emit_queue1 (s : State) (e : Event) : (s.emit e).queue1 = s.queue1 := rfl
@[simp] theorem emit_queueC (s : State) (e : Event) : (s.emit e).queueC = s.queueC := rfl
@[simp] theorem emit_env (s : State) (e : Event) : (s.emit e).env = s.env := rfl
@[simp] theorem emit_result (s : State) (e : Event) : (s.emit e).result = s.result := rfl
@[simp] theorem emit_events (s : State) (e : Event) : (s.emit e).events = s.events ++ [e] := rfl
@[simp] theorem emit_calls (s : State) (e : Event) : (s.emit e).calls = s.calls := rfl

@[simp] theorem withCtl_cfg (s : State) (c : Ctl) : (s.withCtl c).cfg = s.cfg := rfl
@[simp] theorem withCtl_ap0 (s : State) (c : Ctl) : (s.withCtl c).ap0 = s.ap0 := rfl
@[simp] theorem withCtl_ap1 (s : State) (c : Ctl) : (s.withCtl c).ap1 = s.ap1 := rfl
@[simp] theorem withCtl_rx0 (s : State) (c : Ctl) : (s.withCtl c).rx0 = s.rx0 := rfl
@[simp] theorem withCtl_rx1 (s : State) (c : Ctl) : (s.withCtl c).rx1 = s.rx1 := rfl
@[simp] theorem withCtl_ctl (s : State) (c : Ctl) : (s.withCtl c).ctl = c := rfl
@[simp] theorem withCtl_sched (s : State) (c : Ctl) : (s.withCtl c).sched = s.sched := rfl
@[simp] theorem withCtl_queue0 (s : State) (c : Ctl) : (s.withCtl c).queue0 = s.queue0 := rfl
@[simp] theorem withCtl_queue1 (s : State) (c : Ctl) : (s.withCtl c).queue1 = s.queue1 := rfl
@[simp] theorem withCtl_queueC (s : State) (c : Ctl) : (s.withCtl c).queueC = s.queueC := rfl
@[simp] theorem withCtl_env (s : State) (c : Ctl) : (s.withCtl c).env = s.env := rfl
@[simp] theorem withCtl_result (s : State) (c : Ctl) : (s.withCtl c).result = s.result := rfl
@[simp] theorem withCtl_events (s : State) (c : Ctl) : (s.withCtl c).events = s.events := rfl
@[simp] theorem withCtl_calls (s : State) (c : Ctl) : (s.withCtl c).calls = s.calls := rfl

@[simp] theorem withSched_cfg (s : State) (ms : List Move) : (s.withSched ms).cfg = s.cfg := rfl
@[simp] theorem withSched_ap0 (s : State) (ms : List Move) : (s.withSched ms).ap0 = s.ap0 := rfl
@[simp] theorem withSched_ap1 (s : State) (ms : List Move) : (s.withSched ms).ap1 = s.ap1 := rfl
@[simp] theorem withSched_rx0 (s : State) (ms : List Move) : (s.withSched ms).rx0 = s.rx0 := rfl
@[simp] theorem withSched_rx1 (s : State) (ms : List Move) : (s.withSched ms).rx1 = s.rx1 := rfl
@[simp] theorem withSched_ctl (s : State) (ms : List Move) : (s.withSched ms).ctl = s.ctl := rfl
@[simp] theorem withSched_sched (s : State) (ms : List Move) : (s.withSched ms).sched = ms := rfl
@[simp] theorem withSched_queue0 (s : State) (ms : List Move) : (s.withSched ms).queue0 = s.queue0 := rfl
@[simp] theorem withSched_queue1 (s : State) (ms : List Move) : (s.withSched ms).queue1 = s.queue1 := rfl
@[simp] theorem withSched_queueC (s : State) (ms : List Move) : (s.withSched ms).queueC = s.queueC := rfl
@[simp] theorem withSched_env (s : State) (ms : List Move) : (s.withSched ms).env = s.env := rfl
@[simp] theorem withSched_result (s : State) (ms : List Move) : (s.withSched ms).result = s.result := rfl
@[simp] theorem withSched_events (s : State) (ms : List Move) : (s.withSched ms).events = s.events := rfl
@[simp] theorem withSched_calls (s : State) (ms : List Move) : (s.withSched ms).calls = s.calls := rfl

/-! ## `setAp` and `setRx` -/

@[simp] theorem setAp_cfg (s : State) (b : Bus) (d : ApDec) : (s.setAp b d).cfg = s.cfg := by cases b <;> rfl
@[simp] theorem setAp_rx0 (s : State) (b : Bus) (d : ApDec) : (s.setAp b d).rx0 = s.rx0 := by cases b <;> rfl
@[simp] theorem setAp_rx1 (s : State) (b : Bus) (d : ApDec) : (s.setAp b d).rx1 = s.rx1 := by cases b <;> rfl
@[simp] theorem setAp_ctl (s : State) (b : Bus) (d : ApDec) : (s.setAp b d).ctl = s.ctl := by cases b <;> rfl
@[simp] theorem setAp_sched (s : State) (b : Bus) (d : ApDec) : (s.setAp b d).sched = s.sched := by cases b <;> rfl
@[simp] theorem setAp_queue0 (s : State) (b : Bus) (d : ApDec) : (s.setAp b d).queue0 = s.queue0 := by cases b <;> rfl
@[simp] theorem setAp_queue1 (s : State) (b : Bus) (d : ApDec) : (s.setAp b d).queue1 = s.queue1 := by cases b <;> rfl
@[simp] theorem setAp_queueC (s : State) (b : Bus) (d : ApDec) : (s.setAp b d).queueC = s.queueC := by cases b <;> rfl
@[simp] theorem setAp_env (s : State) (b : Bus) (d : ApDec) : (s.setAp b d).env = s.env := by cases b <;> rfl
@[simp] theorem setAp_result (s : State) (b : Bus) (d : ApDec) : (s.setAp b d).result = s.result := by cases b <;> rfl
@[simp] theorem setAp_events (s : State) (b : Bus) (d : ApDec) : (s.setAp b d).events = s.events := by cases b <;> rfl
@[simp] theorem setAp_calls (s : State) (b : Bus) (d : ApDec) : (s.setAp b d).calls = s.calls := by cases b <;> rfl

@[simp] theorem setRx_cfg (s : State) (b : Bus) (c : RxChan) : (s.setRx b c).cfg = s.cfg := by cases b <;> rfl
@[simp] theorem setRx_ap0 (s : State) (b : Bus) (c : RxChan) : (s.setRx b c).ap0 = s.ap0 := by cases b <;> rfl
@[simp] theorem setRx_ap1 (s : State) (b : Bus) (c : RxChan) : (s.setRx b c).ap1 = s.ap1 := by cases b <;> rfl
@[simp] theorem setRx_ctl (s : State) (b : Bus) (c : RxChan) : (s.setRx b c).ctl = s.ctl := by cases b <;> rfl
@[simp] theorem setRx_sched (s : State) (b : Bus) (c : RxChan) : (s.setRx b c).sched = s.sched := by cases b <;> rfl
@[simp] theorem setRx_queue0 (s : State) (b : Bus) (c : RxChan) : (s.setRx b c).queue0 = s.queue0 := by cases b <;> rfl
@[simp] theorem setRx_queue1 (s : State) (b : Bus) (c : RxChan) : (s.setRx b c).queue1 = s.queue1 := by cases b <;> rfl
@[simp] theorem setRx_queueC (s : State) (b : Bus) (c : RxChan) : (s.setRx b c).queueC = s.queueC := by cases b <;> rfl
@[simp] theorem setRx_env (s : State) (b : Bus) (c : RxChan) : (s.setRx b c).env = s.env := by cases b <;> rfl
@[simp] theorem setRx_result (s : State) (b : Bus) (c : RxChan) : (s.setRx b c).result = s.result := by cases b <;> rfl
@[simp] theorem setRx_events (s : State) (b : Bus) (c : RxChan) : (s.setRx b c).events = s.events := by cases b <;> rfl
@[simp] theorem setRx_calls (s : State) (b : Bus) (c : RxChan) : (s.setRx b c).calls = s.calls := by cases b <;> rfl

@[simp] theorem finish_ap (s : State) (r : Result) (b : Bus) : (s.finish r).ap b = s.ap b := by cases b <;> rfl
@[simp] theorem finish_rx (s : State) (r : Result) (b : Bus) : (s.finish r).rx b = s.rx b := by cases b <;> rfl
@[simp] theorem emit_ap (s : State) (e : Event) (b : Bus) : (s.emit e).ap b = s.ap b := by cases b <;> rfl
@[simp] theorem emit_rx (s : State) (e : Event) (b : Bus) : (s.emit e).rx b = s.rx b := by cases b <;> rfl
@[simp] theorem withCtl_ap (s : State) (c : Ctl) (b : Bus) : (s.withCtl c).ap b = s.ap b := by cases b <;> rfl
@[simp] theorem withCtl_rx (s : State) (c : Ctl) (b : Bus) : (s.withCtl c).rx b = s.rx b := by cases b <;> rfl
@[simp] theorem withSched_ap (s : State) (ms : List Move) (b : Bus) : (s.withSched ms).ap b = s.ap b := by cases b <;> rfl
@[simp] theorem withSched_rx (s : State) (ms : List Move) (b : Bus) : (s.withSched ms).rx b = s.rx b := by cases b <;> rfl
@[simp] theorem ap_setAp (s : State) (b : Bus) (d : ApDec) : (s.setAp b d).ap b = d := by cases b <;> rfl
@[simp] theorem rx_setRx (s : State) (b : Bus) (c : RxChan) : (s.setRx b c).rx b = c := by cases b <;> rfl
@[simp] theorem ap_setRx (s : State) (b b' : Bus) (c : RxChan) : (s.setRx b c).ap b' = s.ap b' := by cases b <;> cases b' <;> rfl
@[simp] theorem rx_setAp (s : State) (b b' : Bus) (d : ApDec) : (s.setAp b d).rx b' = s.rx b' := by cases b <;> cases b' <;> rfl
@[simp] theorem ap_setAp_other (s : State) (b : Bus) (d : ApDec) : (s.setAp b d).ap (otherBus b) = s.ap (otherBus b) := by cases b <;> rfl
@[simp] theorem rx_setRx_other (s : State) (b : Bus) (c : RxChan) : (s.setRx b c).rx (otherBus b) = s.rx (otherBus b) := by cases b <;> rfl
@[simp] theorem setAp_setAp (s : State) (b : Bus) (d e : ApDec) : (s.setAp b d).setAp b e = s.setAp b e := by cases b <;> rfl
@[simp] theorem setRx_setRx (s : State) (b : Bus) (c e : RxChan) : (s.setRx b c).setRx b e = s.setRx b e := by cases b <;> rfl
@[simp] theorem setAp_self (s : State) (b : Bus) : s.setAp b (s.ap b) = s := by cases b <;> rfl
@[simp] theorem setRx_self (s : State) (b : Bus) : s.setRx b (s.rx b) = s := by cases b <;> rfl
@[simp] theorem finish_finish (s : State) (r q : Result) : (s.finish r).finish q = s.finish q := rfl
theorem setAp_bus0 (s : State) (d : ApDec) : s.setAp .bus0 d = { s with ap0 := d } := rfl
theorem setAp_bus1 (s : State) (d : ApDec) : s.setAp .bus1 d = { s with ap1 := d } := rfl

theorem eq_or_eq_other (b c : Bus) : c = b ∨ c = otherBus b := by cases b <;> cases c <;> simp [otherBus]

theorem other_ne (b : Bus) : otherBus b ≠ b := by cases b <;> simp [otherBus]

@[simp] theorem other_other (b : Bus) : otherBus (otherBus b) = b := by cases b <;> rfl

theorem ap_setAp_of_ne (s : State) (b c : Bus) (d : ApDec) (h : c ≠ b) : (s.setAp b d).ap c = s.ap c := by
  cases b <;> cases c <;> first | rfl | exact absurd rfl h

theorem rx_setRx_of_ne (s : State) (b c : Bus) (d : RxChan) (h : c ≠ b) : (s.setRx b d).rx c = s.rx c := by
  cases b <;> cases c <;> first | rfl | exact absurd rfl h

theorem setAp_setRx_comm (s : State) (b c : Bus) (d : ApDec) (x : RxChan) :
    (s.setAp b d).setRx c x = (s.setRx c x).setAp b d := by cases b <;> cases c <;> rfl

theorem setAp_emit_comm (s : State) (b : Bus) (d : ApDec) (e : Event) :
    (s.emit e).setAp b d = (s.setAp b d).emit e := by cases b <;> rfl

theorem setRx_emit_comm (s : State) (b : Bus) (c : RxChan) (e : Event) :
    (s.emit e).setRx b c = (s.setRx b c).emit e := by cases b <;> rfl

theorem setAp_finish_comm (s : State) (b : Bus) (d : ApDec) (r : Result) :
    (s.finish r).setAp b d = (s.setAp b d).finish r := by cases b <;> rfl

theorem setRx_finish_comm (s : State) (b : Bus) (c : RxChan) (r : Result) :
    (s.finish r).setRx b c = (s.setRx b c).finish r := by cases b <;> rfl

/-! ## `setQueue` -/

@[simp] theorem setQueue_cfg (s : State) (a : Agent) (q : List Request) : (s.setQueue a q).cfg = s.cfg := by cases a with
  | producer b => cases b <;> rfl
  | consumer => rfl
@[simp] theorem setQueue_ap0 (s : State) (a : Agent) (q : List Request) : (s.setQueue a q).ap0 = s.ap0 := by cases a with
  | producer b => cases b <;> rfl
  | consumer => rfl
@[simp] theorem setQueue_ap1 (s : State) (a : Agent) (q : List Request) : (s.setQueue a q).ap1 = s.ap1 := by cases a with
  | producer b => cases b <;> rfl
  | consumer => rfl
@[simp] theorem setQueue_rx0 (s : State) (a : Agent) (q : List Request) : (s.setQueue a q).rx0 = s.rx0 := by cases a with
  | producer b => cases b <;> rfl
  | consumer => rfl
@[simp] theorem setQueue_rx1 (s : State) (a : Agent) (q : List Request) : (s.setQueue a q).rx1 = s.rx1 := by cases a with
  | producer b => cases b <;> rfl
  | consumer => rfl
@[simp] theorem setQueue_ctl (s : State) (a : Agent) (q : List Request) : (s.setQueue a q).ctl = s.ctl := by cases a with
  | producer b => cases b <;> rfl
  | consumer => rfl
@[simp] theorem setQueue_sched (s : State) (a : Agent) (q : List Request) : (s.setQueue a q).sched = s.sched := by cases a with
  | producer b => cases b <;> rfl
  | consumer => rfl
@[simp] theorem setQueue_env (s : State) (a : Agent) (q : List Request) : (s.setQueue a q).env = s.env := by cases a with
  | producer b => cases b <;> rfl
  | consumer => rfl
@[simp] theorem setQueue_result (s : State) (a : Agent) (q : List Request) : (s.setQueue a q).result = s.result := by cases a with
  | producer b => cases b <;> rfl
  | consumer => rfl
@[simp] theorem setQueue_events (s : State) (a : Agent) (q : List Request) : (s.setQueue a q).events = s.events := by cases a with
  | producer b => cases b <;> rfl
  | consumer => rfl
@[simp] theorem setQueue_calls (s : State) (a : Agent) (q : List Request) : (s.setQueue a q).calls = s.calls := by cases a with
  | producer b => cases b <;> rfl
  | consumer => rfl
@[simp] theorem queue_setQueue (s : State) (a : Agent) (q : List Request) : (s.setQueue a q).queue a = q := by cases a with
  | producer b => cases b <;> rfl
  | consumer => rfl
@[simp] theorem queue_withSched (s : State) (a : Agent) (ms : List Move) : (s.withSched ms).queue a = s.queue a := by cases a with
  | producer b => cases b <;> rfl
  | consumer => rfl
@[simp] theorem setQueue_ap (s : State) (a : Agent) (q : List Request) (b : Bus) : (s.setQueue a q).ap b = s.ap b := by cases b <;> simp [State.ap]
@[simp] theorem setQueue_rx (s : State) (a : Agent) (q : List Request) (b : Bus) : (s.setQueue a q).rx b = s.rx b := by cases b <;> simp [State.rx]

/-! ## `resetCursor`, `release`, `clearSignals`, and the composites over them -/

@[simp] theorem resetCursor_cfg (s : State) (b : Bus) : (s.resetCursor b).cfg = s.cfg := by cases b <;> rfl
@[simp] theorem resetCursor_rx0 (s : State) (b : Bus) : (s.resetCursor b).rx0 = s.rx0 := by cases b <;> rfl
@[simp] theorem resetCursor_rx1 (s : State) (b : Bus) : (s.resetCursor b).rx1 = s.rx1 := by cases b <;> rfl
@[simp] theorem resetCursor_ctl (s : State) (b : Bus) : (s.resetCursor b).ctl = s.ctl := by cases b <;> rfl
@[simp] theorem resetCursor_sched (s : State) (b : Bus) : (s.resetCursor b).sched = s.sched := by cases b <;> rfl
@[simp] theorem resetCursor_queue0 (s : State) (b : Bus) : (s.resetCursor b).queue0 = s.queue0 := by cases b <;> rfl
@[simp] theorem resetCursor_queue1 (s : State) (b : Bus) : (s.resetCursor b).queue1 = s.queue1 := by cases b <;> rfl
@[simp] theorem resetCursor_queueC (s : State) (b : Bus) : (s.resetCursor b).queueC = s.queueC := by cases b <;> rfl
@[simp] theorem resetCursor_env (s : State) (b : Bus) : (s.resetCursor b).env = s.env := by cases b <;> rfl
@[simp] theorem resetCursor_result (s : State) (b : Bus) : (s.resetCursor b).result = s.result := by cases b <;> rfl
@[simp] theorem resetCursor_events (s : State) (b : Bus) : (s.resetCursor b).events = s.events := by cases b <;> rfl
@[simp] theorem resetCursor_calls (s : State) (b : Bus) : (s.resetCursor b).calls = s.calls := by cases b <;> rfl

@[simp] theorem release_cfg (s : State) (b : Bus) : (s.release b).cfg = s.cfg := by cases b <;> rfl
@[simp] theorem release_ap0 (s : State) (b : Bus) : (s.release b).ap0 = s.ap0 := by cases b <;> rfl
@[simp] theorem release_ap1 (s : State) (b : Bus) : (s.release b).ap1 = s.ap1 := by cases b <;> rfl
@[simp] theorem release_ctl (s : State) (b : Bus) : (s.release b).ctl = s.ctl := by cases b <;> rfl
@[simp] theorem release_sched (s : State) (b : Bus) : (s.release b).sched = s.sched := by cases b <;> rfl
@[simp] theorem release_queue0 (s : State) (b : Bus) : (s.release b).queue0 = s.queue0 := by cases b <;> rfl
@[simp] theorem release_queue1 (s : State) (b : Bus) : (s.release b).queue1 = s.queue1 := by cases b <;> rfl
@[simp] theorem release_queueC (s : State) (b : Bus) : (s.release b).queueC = s.queueC := by cases b <;> rfl
@[simp] theorem release_env (s : State) (b : Bus) : (s.release b).env = s.env := by cases b <;> rfl
@[simp] theorem release_result (s : State) (b : Bus) : (s.release b).result = s.result := by cases b <;> rfl
@[simp] theorem release_events (s : State) (b : Bus) : (s.release b).events = s.events := by cases b <;> rfl
@[simp] theorem release_calls (s : State) (b : Bus) : (s.release b).calls = s.calls := by cases b <;> rfl

@[simp] theorem resetCursor_ap (s : State) (b : Bus) : (s.resetCursor b).ap b = { s.ap b with pos := 0#8, dstBad := false } := by cases b <;> rfl
@[simp] theorem resetCursor_rx (s : State) (b c : Bus) : (s.resetCursor b).rx c = s.rx c := by cases b <;> cases c <;> rfl
@[simp] theorem release_rx (s : State) (b : Bus) : (s.release b).rx b = (s.rx b).released := by cases b <;> rfl
@[simp] theorem release_ap (s : State) (b c : Bus) : (s.release b).ap c = s.ap c := by cases b <;> cases c <;> rfl
@[simp] theorem clearSignals_cfg (s : State) : s.clearSignals.cfg = s.cfg := rfl
@[simp] theorem clearSignals_ap0 (s : State) : s.clearSignals.ap0 = s.ap0 := rfl
@[simp] theorem clearSignals_ap1 (s : State) : s.clearSignals.ap1 = s.ap1 := rfl
@[simp] theorem clearSignals_ctl (s : State) : s.clearSignals.ctl = s.ctl := rfl
@[simp] theorem clearSignals_sched (s : State) : s.clearSignals.sched = s.sched := rfl
@[simp] theorem clearSignals_queue0 (s : State) : s.clearSignals.queue0 = s.queue0 := rfl
@[simp] theorem clearSignals_queue1 (s : State) : s.clearSignals.queue1 = s.queue1 := rfl
@[simp] theorem clearSignals_queueC (s : State) : s.clearSignals.queueC = s.queueC := rfl
@[simp] theorem clearSignals_env (s : State) : s.clearSignals.env = s.env := rfl
@[simp] theorem clearSignals_result (s : State) : s.clearSignals.result = s.result := rfl
@[simp] theorem clearSignals_events (s : State) : s.clearSignals.events = s.events := rfl
@[simp] theorem clearSignals_calls (s : State) : s.clearSignals.calls = s.calls := rfl
@[simp] theorem clearSignals_rx (s : State) (b : Bus) : s.clearSignals.rx b = { s.rx b with sig := false } := by cases b <;> rfl
@[simp] theorem clearSignals_ap (s : State) (b : Bus) : s.clearSignals.ap b = s.ap b := by cases b <;> rfl
@[simp] theorem logFailure_eq (s : State) (b : Bus) (cause : DecodeCause) : s.logFailure b cause = s.emit (.log (.decodeFailure b cause)) := rfl
@[simp] theorem logRegister_eq (s : State) (b : Bus) (addr : U8) (cause : RegCause) : s.logRegister b addr cause = s.emit (.log (.registerError b addr cause)) := rfl

/-! ## `buf`, `setBuf`, `store`, `setStore` -/

@[simp] theorem buf_setBuf (c : RxChan) (k : BufSel) (m : Memory) : (c.setBuf k m).buf k = m := by cases k <;> rfl

@[simp] theorem buf_setBuf_other (c : RxChan) (k : BufSel) (m : Memory) : (c.setBuf k m).buf k.other = c.buf k.other := by
  cases k <;> rfl

@[simp] theorem bufSel_other_other (k : BufSel) : k.other.other = k := by cases k <;> rfl

@[simp] theorem setBuf_cur (c : RxChan) (k : BufSel) (m : Memory) : (c.setBuf k m).cur = c.cur := by cases k <;> rfl
@[simp] theorem setBuf_wsel (c : RxChan) (k : BufSel) (m : Memory) : (c.setBuf k m).wsel = c.wsel := by cases k <;> rfl
@[simp] theorem setBuf_flen (c : RxChan) (k : BufSel) (m : Memory) : (c.setBuf k m).flen = c.flen := by cases k <;> rfl
@[simp] theorem setBuf_full (c : RxChan) (k : BufSel) (m : Memory) : (c.setBuf k m).full = c.full := by cases k <;> rfl
@[simp] theorem setBuf_sig (c : RxChan) (k : BufSel) (m : Memory) : (c.setBuf k m).sig = c.sig := by cases k <;> rfl

@[simp] theorem store_setStore (s : State) (sp : Space) (m : Memory) : (s.setStore sp m).store sp = m := by
  cases sp <;> simp [State.setStore, State.store]

@[simp] theorem setStore_cfg (s : State) (sp : Space) (m : Memory) : (s.setStore sp m).cfg = s.cfg := by
  cases sp <;> simp [State.setStore]

@[simp] theorem ap_bus0 (s : State) : s.ap .bus0 = s.ap0 := rfl
@[simp] theorem ap_bus1 (s : State) : s.ap .bus1 = s.ap1 := rfl
@[simp] theorem rx_bus0 (s : State) : s.rx .bus0 = s.rx0 := rfl
@[simp] theorem rx_bus1 (s : State) : s.rx .bus1 = s.rx1 := rfl

theorem released_eq (c : RxChan) : c.released = { c with full := false } := rfl

/-! ## What a channel's own updates do to its two buffers -/

@[simp] theorem fill_of_stored (c : RxChan) (m : Memory) (u : U8) :
    ({ c.setBuf c.wsel m with cur := u } : RxChan).fill = m := by
  cases h : c.wsel <;> simp [RxChan.fill, RxChan.setBuf, RxChan.buf, h]

@[simp] theorem latched_of_stored (c : RxChan) (m : Memory) (u : U8) :
    ({ c.setBuf c.wsel m with cur := u } : RxChan).latched = c.latched := by
  cases h : c.wsel <;> simp [RxChan.latched, RxChan.setBuf, RxChan.buf, BufSel.other, h]

@[simp] theorem latched_of_handed (c : RxChan) (n u : U8) (f g : Bool) :
    ({ c with flen := n, wsel := c.wsel.other, full := f, sig := g, cur := u } : RxChan).latched = c.fill := by
  cases h : c.wsel <;> simp [RxChan.latched, RxChan.fill, RxChan.buf, BufSel.other, h]

@[simp] theorem latched_of_restarted (c : RxChan) (u : U8) : ({ c with cur := u } : RxChan).latched = c.latched := by
  cases h : c.wsel <;> simp [RxChan.latched, RxChan.buf, BufSel.other, h]

@[simp] theorem latched_of_unsignalled (c : RxChan) (g : Bool) : ({ c with sig := g } : RxChan).latched = c.latched := by
  cases h : c.wsel <;> simp [RxChan.latched, RxChan.buf, BufSel.other, h]

/-! ## `resetWith` -/

@[simp] theorem resetWith_cfg (p : Params) : (State.resetWith p).cfg = p := rfl
@[simp] theorem resetWith_ap0 (p : Params) : (State.resetWith p).ap0 = ApDec.reset := rfl
@[simp] theorem resetWith_ap1 (p : Params) : (State.resetWith p).ap1 = ApDec.reset := rfl
@[simp] theorem resetWith_rx0 (p : Params) : (State.resetWith p).rx0 = RxChan.reset := rfl
@[simp] theorem resetWith_rx1 (p : Params) : (State.resetWith p).rx1 = RxChan.reset := rfl
@[simp] theorem resetWith_ctl (p : Params) : (State.resetWith p).ctl = .ready := rfl
@[simp] theorem resetWith_sched (p : Params) : (State.resetWith p).sched = [] := rfl
@[simp] theorem resetWith_queue0 (p : Params) : (State.resetWith p).queue0 = [] := rfl
@[simp] theorem resetWith_queue1 (p : Params) : (State.resetWith p).queue1 = [] := rfl
@[simp] theorem resetWith_queueC (p : Params) : (State.resetWith p).queueC = [] := rfl
@[simp] theorem resetWith_result (p : Params) : (State.resetWith p).result = .none := rfl
@[simp] theorem resetWith_events (p : Params) : (State.resetWith p).events = [] := rfl
@[simp] theorem resetWith_calls (p : Params) : (State.resetWith p).calls = [] := rfl

end Sys2Proof.Machine
end

