-- ==== Sys2Proof/Laws/Memory.lean ====
section
/-! SUPPORT. The byte stores: reading after writing, the canonical form, and one lemma for each byte access. -/

namespace Sys2Proof.Machine

/-! ## Read after write -/

@[simp] theorem read_write_same (m : Memory) (i : Nat) (v : U8) : (m.write i v).read i = some v := by
  induction m with
  | nil => simp [Memory.write, Memory.read]
  | cons c m ih =>
    obtain ⟨a, w⟩ := c
    by_cases h : i < a
    · simp [Memory.write, Memory.read, h]
    · by_cases e : a = i <;> simp [Memory.write, Memory.read, h, e, ih]

theorem read_write_other (m : Memory) (i j : Nat) (v : U8) (h : j ≠ i) : (m.write i v).read j = m.read j := by
  have h' : i ≠ j := fun e => h e.symm
  induction m with
  | nil => simp [Memory.write, Memory.read, h']
  | cons c m ih =>
    obtain ⟨a, w⟩ := c
    by_cases l : i < a
    · simp [Memory.write, Memory.read, l, h']
    · by_cases e : a = i
      · subst e; simp [Memory.write, Memory.read, h']
      · simp [Memory.write, Memory.read, l, e, ih]

theorem read_write (m : Memory) (i j : Nat) (v : U8) :
    (m.write i v).read j = if j = i then some v else m.read j := by
  by_cases h : j = i
  · subst h; simp
  · simp [h, read_write_other m i j v h]

/-! ## The canonical form -/

theorem above_write (m : Memory) (lo i : Nat) (v : U8) (hm : Memory.above lo m = true) (hi : lo < i) :
    Memory.above lo (m.write i v) = true := by
  induction m generalizing lo with
  | nil => simp [Memory.write, Memory.above, hi]
  | cons c m ih =>
    obtain ⟨a, w⟩ := c
    simp only [Memory.above, Bool.and_eq_true, decide_eq_true_eq] at hm
    by_cases l : i < a
    · simp [Memory.write, Memory.above, l, hi, hm.2]
    · by_cases e : a = i
      · subst e; simp [Memory.write, Memory.above, hi, hm.2]
      · simp only [Memory.write, l, e, if_false, Memory.above, Bool.and_eq_true, decide_eq_true_eq]
        exact ⟨hm.1, ih a hm.2 (by omega)⟩

/-- A write keeps the canonical form. -/
theorem write_wf (m : Memory) (i : Nat) (v : U8) (hm : m.wf = true) : (m.write i v).wf = true := by
  cases m with
  | nil => simp [Memory.write, Memory.wf, Memory.above]
  | cons c m =>
    obtain ⟨a, w⟩ := c
    simp only [Memory.wf] at hm
    by_cases l : i < a
    · simp [Memory.write, Memory.wf, Memory.above, l, hm]
    · by_cases e : a = i
      · subst e; simpa [Memory.write, Memory.wf] using hm
      · simp only [Memory.write, l, e, if_false, Memory.wf]
        exact above_write m a i v hm (by omega)

/-- A write inside the store lists nothing outside it. -/
theorem write_inside (m : Memory) (i n : Nat) (v : U8) (hm : m.inside n = true) (hi : i < n) :
    (m.write i v).inside n = true := by
  induction m with
  | nil => simp [Memory.write, Memory.inside, hi]
  | cons c m ih =>
    obtain ⟨a, w⟩ := c
    simp only [Memory.inside, List.all_cons, Bool.and_eq_true, decide_eq_true_eq] at hm ih
    by_cases l : i < a
    · simp [Memory.write, l, Memory.inside, hi, hm]
    · by_cases e : a = i
      · subst e; simp [Memory.write, Memory.inside, hi, hm]
      · simp only [Memory.write, l, e, if_false, Memory.inside, List.all_cons, Bool.and_eq_true, decide_eq_true_eq]
        exact ⟨hm.1, ih hm.2⟩

theorem write_good (m : Memory) (i n : Nat) (v : U8) (hm : m.Good n) (hi : i < n) : (m.write i v).Good n :=
  ⟨write_wf m i v hm.1, write_inside m i n v hm.2 hi⟩

/-- The empty store, which every store is at reset, has the form. -/
theorem nil_good (n : Nat) : Memory.Good [] n := ⟨rfl, rfl⟩

/-- The stores of `State.resetWith` have the form. -/
theorem resetWith_store_good (p : Params) (sp : Space) (n : Nat) : ((State.resetWith p).store sp).Good n := by
  cases sp with
  | payload b => cases b <;> exact nil_good n
  | rxbuf b k => cases b <;> cases k <;> exact nil_good n

/-! ## Written bytes -/

theorem write_isSome (m : Memory) (i j : Nat) (v : U8) (h : (m.read j).isSome = true) :
    ((m.write i v).read j).isSome = true := by
  rw [read_write]; split <;> simp [h]

theorem writtenBelow_mono (m : Memory) (n k : Nat) (h : m.WrittenBelow n) (hk : k ≤ n) : m.WrittenBelow k :=
  fun i hi => h i (by omega)

theorem writtenBelow_write_keeps (m : Memory) (i n : Nat) (v : U8) (h : m.WrittenBelow n) : (m.write i v).WrittenBelow n :=
  fun j hj => write_isSome m i j v (h j hj)

theorem writtenBelow_write_next (m : Memory) (n : Nat) (v : U8) (h : m.WrittenBelow n) :
    (m.write n v).WrittenBelow (n + 1) := by
  intro j hj
  by_cases e : j = n
  · subst e; simp
  · exact write_isSome m n j v (h j (by omega))

/-! ## One byte access -/

/-- What a read answers, once and for all: the byte, where the index is inside and the byte written. -/
theorem memRead_ok_iff (s : State) (sp : Space) (i : Nat) (v : U8) :
    s.memRead sp i = .ok v ↔ i < storeSize s.cfg sp ∧ (s.store sp).read i = some v := by
  unfold State.memRead
  split
  · split <;> simp_all
  · simp_all

/-- What a write answers, once and for all. -/
theorem memWrite_ok_iff (s t : State) (sp : Space) (i : Nat) (v : U8) :
    s.memWrite sp i v = .ok t ↔ i < storeSize s.cfg sp ∧ t = s.setStore sp ((s.store sp).write i v) := by
  unfold State.memWrite
  split <;> simp_all [eq_comm]

/-- A written run of bytes inside the store reads, byte by byte. -/
theorem readBytes_of_written (s : State) (sp : Space) (n i : Nat) (hn : i + n ≤ storeSize s.cfg sp)
    (h : ∀ j, i ≤ j → j < i + n → ((s.store sp).read j).isSome = true) :
    ∃ vs, s.readBytes sp i n = .ok vs ∧ vs.length = n ∧ ∀ j, j < n → (s.store sp).read (i + j) = vs[j]? := by
  induction n generalizing i with
  | zero => exact ⟨[], rfl, rfl, by simp⟩
  | succ n ih =>
    obtain ⟨v, hv⟩ := Option.isSome_iff_exists.mp (h i (by omega) (by omega))
    obtain ⟨vs, h1, h2, h3⟩ := ih (i + 1) (by omega) (fun j a b => h j (by omega) (by omega))
    have hr : s.memRead sp i = .ok v := (memRead_ok_iff s sp i v).mpr ⟨by omega, hv⟩
    refine ⟨v :: vs, by simp [State.readBytes, hr, h1], by simp [h2], ?_⟩
    intro j hj
    cases j with
    | zero => simpa using hv
    | succ j => rw [show i + (j + 1) = i + 1 + j by omega, h3 j (by omega)]; simp

/-- A run whose bytes are known reads as those bytes. -/
theorem readBytes_eq (s : State) (sp : Space) (vs : List U8) (i : Nat) (hn : i + vs.length ≤ storeSize s.cfg sp)
    (h : ∀ j, j < vs.length → (s.store sp).read (i + j) = vs[j]?) : s.readBytes sp i vs.length = .ok vs := by
  induction vs generalizing i with
  | nil => rfl
  | cons v vs ih =>
    simp only [List.length_cons] at hn h ⊢
    have hv : s.memRead sp i = .ok v := (memRead_ok_iff s sp i v).mpr ⟨by omega, by simpa using h 0 (by omega)⟩
    have hr := ih (i + 1) (by omega) (fun j hj => by
      have := h (j + 1) (by omega)
      rw [show i + 1 + j = i + (j + 1) by omega, this]; simp)
    simp [State.readBytes, hv, hr]

/-- What a run answers: as many bytes, each the store's, all inside. -/
theorem readBytes_ok (s : State) (sp : Space) (n i : Nat) (vs : List U8) (h : s.readBytes sp i n = .ok vs) :
    vs.length = n ∧ (∀ j, j < n → (s.store sp).read (i + j) = vs[j]?) ∧ (n = 0 ∨ i + n ≤ storeSize s.cfg sp) := by
  induction n generalizing i vs with
  | zero => simp only [State.readBytes, Except.ok.injEq] at h; subst h; simp
  | succ n ih =>
    simp only [State.readBytes] at h
    split at h
    · cases h
    · rename_i v hv
      split at h
      · cases h
      · rename_i ws hws
        cases h
        obtain ⟨h1, h2, h3⟩ := ih (i + 1) ws hws
        obtain ⟨hi, hr⟩ := (memRead_ok_iff s sp i v).mp hv
        refine ⟨by simp [h1], ?_, by omega⟩
        intro j hj
        cases j with
        | zero => simpa using hr
        | succ j => rw [show i + (j + 1) = i + 1 + j by omega, h2 j (by omega)]; simp

/-- A run depends on the parameters and the bytes of its store alone. -/
theorem readBytes_congr (s s' : State) (sp sp' : Space) (n i : Nat) (hsz : storeSize s'.cfg sp' = storeSize s.cfg sp)
    (vs : List U8) (hm : ∀ j, i ≤ j → j < i + n → (s'.store sp').read j = (s.store sp).read j)
    (h : s.readBytes sp i n = .ok vs) : s'.readBytes sp' i n = .ok vs := by
  obtain ⟨h1, h2, h3⟩ := readBytes_ok s sp n i vs h
  subst h1
  rcases h3 with h3 | h3
  · rw [List.length_eq_zero_iff] at h3; subst h3; rfl
  · exact readBytes_eq s' sp' vs i (by omega) (fun j hj => by rw [hm (i + j) (by omega) (by omega)]; exact h2 j hj)

end Sys2Proof.Machine
end

