-- ==== Sys2Proof/Laws/Ops.lean ====
section
/-! SUPPORT. One lemma for each shared operation that says once what it can do, for the proofs to cite. -/

namespace Sys2Proof.Machine

/-! ## Answers -/

@[simp] theorem toAnswer_next_iff (x : Except Stop State) (t : State) : toAnswer x = .next t ↔ x = .ok t := by
  rcases x with (_ | _) | _ <;> simp [toAnswer]

@[simp] theorem toAnswer_fault_iff (x : Except Stop State) (f : Fault) :
    toAnswer x = .fault f ↔ x = .error (.fault f) := by
  rcases x with (_ | _) | _ <;> simp [toAnswer]

@[simp] theorem toAnswer_refused_iff (x : Except Stop State) (r : Refusal) :
    toAnswer x = .refused r ↔ x = .error (.refused r) := by
  rcases x with (_ | _) | _ <;> simp [toAnswer]

/-- An encoder's answer is its bytes as the outcome, and nothing else. -/
theorem returnFrame_next_iff (x : Except Refusal (List U8)) (s t : State) :
    returnFrame x s = .next t ↔ ∃ bytes, x = .ok bytes ∧ t = s.finish (.frame bytes) := by
  cases x <;> simp [returnFrame, eq_comm]

/-! ## The graph of a function -/

/-- `graphAt` is the library's look-up in an association list, with any lawful equality test. -/
theorem graphAt_eq_lookup {α β : Type} [DecidableEq α] [BEq α] [LawfulBEq α] (g : List (α × β)) (a : α) :
    graphAt g a = g.lookup a := by
  induction g with
  | nil => rfl
  | cons c g ih =>
    obtain ⟨x, y⟩ := c
    by_cases h : x = a
    · subst h; simp [graphAt]
    · have h' : a ≠ x := fun e => h e.symm
      simp [graphAt, h, List.lookup_cons, beq_false_of_ne h', ih]

/-! ## The environment -/

/-- What a draw of a read answer leaves: another environment, and the listed answer where one is listed. -/
theorem drawRead_spec (s : State) (a : U8) : ∃ r e, s.drawRead a = (r, { s with env := e }) ∧
    ∀ x xs, s.env.reads = x :: xs → r = x ∧ e = { s.env with reads := xs } := by
  unfold State.drawRead
  split <;> rename_i h
  · exact ⟨_, _, rfl, fun x xs hx => by rw [h] at hx; cases hx; exact ⟨rfl, rfl⟩⟩
  · exact ⟨_, _, rfl, fun x xs hx => by rw [h] at hx; cases hx⟩

/-- What a draw of a write answer leaves. -/
theorem drawWrite_spec (s : State) (a : U8) (v : U32) : ∃ r e, s.drawWrite a v = (r, { s with env := e }) ∧
    ∀ x xs, s.env.writes = x :: xs → r = x ∧ e = { s.env with writes := xs } := by
  unfold State.drawWrite
  split <;> rename_i h
  · exact ⟨_, _, rfl, fun x xs hx => by rw [h] at hx; cases hx; exact ⟨rfl, rfl⟩⟩
  · exact ⟨_, _, rfl, fun x xs hx => by rw [h] at hx; cases hx⟩

/-- `RegRead`: one call on record, and another environment. -/
theorem regRead_spec (s : State) (a : U8) :
    ∃ r e, s.regRead a = (r, { s with env := e, calls := s.calls ++ [.read a r] }) ∧
      ∀ x xs, s.env.reads = x :: xs → r = x := by
  obtain ⟨r, e, h, hl⟩ := drawRead_spec s a
  exact ⟨r, e, by simp [State.regRead, h], fun x xs hx => (hl x xs hx).1⟩

/-- `RegWrite`: one call on record, and another environment. -/
theorem regWrite_spec (s : State) (a : U8) (v : U32) :
    ∃ r e, s.regWrite a v = (r, { s with env := e, calls := s.calls ++ [.write a v r] }) ∧
      ∀ x xs, s.env.writes = x :: xs → r = x := by
  obtain ⟨r, e, h, hl⟩ := drawWrite_spec s a v
  exact ⟨r, e, by simp [State.regWrite, h], fun x xs hx => (hl x xs hx).1⟩

/-- What draws one after the other take from the listed inputs. -/
theorem drawnFrom_append {α : Type} {as bs l m r : List α} (h : DrawnFrom as l m) (h' : DrawnFrom bs m r) :
    DrawnFrom (as ++ bs) l r := by
  obtain ⟨ha, rfl⟩ := h
  obtain ⟨hb, rfl⟩ := h'
  constructor
  · rw [List.take_append, ha, List.length_append, List.take_add]
    rw [List.length_drop] at hb
    rw [hb]
  · rw [List.drop_drop, List.length_append]

theorem drawnFrom_nil {α : Type} (l : List α) : DrawnFrom [] l l := by simp [DrawnFrom]

theorem callsDrawnFrom_nil (e : Env) : CallsDrawnFrom [] e e := ⟨drawnFrom_nil _, drawnFrom_nil _, rfl, rfl⟩

theorem callsDrawnFrom_append {cs cs' : List RegCall} {e e' e'' : Env} (h : CallsDrawnFrom cs e e')
    (h' : CallsDrawnFrom cs' e' e'') : CallsDrawnFrom (cs ++ cs') e e'' := by
  obtain ⟨h1, h2, h3, h4⟩ := h
  obtain ⟨k1, k2, k3, k4⟩ := h'
  rw [CallsDrawnFrom, List.filterMap_append, List.filterMap_append]
  exact ⟨drawnFrom_append h1 k1, drawnFrom_append h2 k2, k3.trans h3, k4.trans h4⟩

/-- The register call of an operation: one call of that operation, the answer it got, drawn from the listed answers of
its kind. -/
theorem regCall_spec (s : State) (op : RegOp) :
    ∃ c e, s.regCall op = (c.answer, { s with env := e, calls := s.calls ++ [c] }) ∧ c.op = op ∧
      CallsDrawnFrom [c] s.env e := by
  cases op with
  | read a =>
    cases h : s.env.reads <;>
    · refine ⟨.read a _, _, by simp only [State.regCall, State.regRead, State.drawRead, h]; rfl, rfl, ?_, ?_, ?_⟩
      · rw [h]; exact ⟨by simp [RegCall.readAnswer], rfl⟩
      · exact drawnFrom_nil _
      · exact ⟨rfl, rfl⟩
  | write a v =>
    cases h : s.env.writes <;>
    · refine ⟨.write a v _, _, by simp only [State.regCall, State.regWrite, State.drawWrite, h]; rfl, rfl, ?_, ?_, ?_⟩
      · exact drawnFrom_nil _
      · rw [h]; exact ⟨by simp [RegCall.writeAnswer], rfl⟩
      · exact ⟨rfl, rfl⟩

/-- What a draw of a time-out leaves. -/
theorem drawTimeout_spec (s : State) : ∃ r e, s.drawTimeout = (r, { s with env := e }) ∧
    ∀ x xs, s.env.timeouts = x :: xs → r = x ∧ e = { s.env with timeouts := xs } := by
  unfold State.drawTimeout
  split <;> rename_i h
  · exact ⟨_, _, rfl, fun x xs hx => by rw [h] at hx; cases hx; exact ⟨rfl, rfl⟩⟩
  · exact ⟨_, _, rfl, fun x xs hx => by rw [h] at hx; cases hx⟩

/-- What a draw of an order leaves. -/
theorem drawAscending_spec (s : State) : ∃ r e, s.drawAscending = (r, { s with env := e }) ∧
    ∀ x xs, s.env.orders = x :: xs → r = x ∧ e = { s.env with orders := xs } := by
  unfold State.drawAscending
  split <;> rename_i h
  · exact ⟨_, _, rfl, fun x xs hx => by rw [h] at hx; cases hx; exact ⟨rfl, rfl⟩⟩
  · exact ⟨_, _, rfl, fun x xs hx => by rw [h] at hx; cases hx⟩

/-! ## The signal bits -/

theorem sigMask_eq (s : State) : s.sigMask = bitOf s.rx1.sig ++ bitOf s.rx0.sig := rfl

theorem sigMask_zero_iff (s : State) : s.sigMask = 0#2 ↔ s.rx0.sig = false ∧ s.rx1.sig = false := by
  rw [sigMask_eq]; cases s.rx0.sig <;> cases s.rx1.sig <;> decide

theorem sigMask_three_iff (s : State) : s.sigMask = 3#2 ↔ s.rx0.sig = true ∧ s.rx1.sig = true := by
  rw [sigMask_eq]; cases s.rx0.sig <;> cases s.rx1.sig <;> decide

theorem sigMask_bit0 (s : State) : s.sigMask.getLsbD 0 = s.rx0.sig := by
  rw [sigMask_eq]; cases s.rx0.sig <;> cases s.rx1.sig <;> decide

theorem sigMask_bit1 (s : State) : s.sigMask.getLsbD 1 = s.rx1.sig := by
  rw [sigMask_eq]; cases s.rx0.sig <;> cases s.rx1.sig <;> decide

/-- `SIG.WAIT` with a bit set. -/
theorem waitSignal_of_signal (s : State) (h : s.rx0.sig = true ∨ s.rx1.sig = true) :
    s.waitSignal = (some (.signalled s.sigMask), s.clearSignals) := by
  have hz : s.sigMask ≠ 0#2 := fun e => by
    have hh := (sigMask_zero_iff s).mp e
    simp [hh.1, hh.2] at h
  simp [State.waitSignal, hz]

/-- `SIG.WAIT` with no bit set: only the environment changes, and it times out or it does not complete. -/
theorem waitSignal_of_none (s : State) (h0 : s.rx0.sig = false) (h1 : s.rx1.sig = false) :
    ∃ t e, s.waitSignal = (if t then some .timeout else none, { s with env := e }) ∧
      ∀ x xs, s.env.timeouts = x :: xs → t = x ∧ e = { s.env with timeouts := xs } := by
  obtain ⟨t, e, h, hl⟩ := drawTimeout_spec s
  exact ⟨t, e, by simp [State.waitSignal, (sigMask_zero_iff s).mpr ⟨h0, h1⟩, h], hl⟩

/-! ## The receiver -/

/-- What `RX.BYTE` does where it goes through: one byte of the fill buffer, and the cursor. -/
theorem receiveByte_ok_iff (b : Bus) (v : U8) (s t : State) :
    receiveByte b v s = .ok t ↔ s.cfg.rxCap ≠ 0#8 ∧ (storeIndex s.cfg (s.rx b)).toNat < s.cfg.rxCap.toNat ∧
      t = s.setRx b ({ (s.rx b).setBuf (s.rx b).wsel ((s.rx b).fill.write (storeIndex s.cfg (s.rx b)).toNat v) with
        cur := storeIndex s.cfg (s.rx b) + 1#8 }) := by
  unfold receiveByte
  by_cases hz : s.cfg.rxCap = 0#8
  · simp [hz]
  · by_cases hi : (storeIndex s.cfg (s.rx b)).toNat < s.cfg.rxCap.toNat
    · simp [hz, hi, State.memWrite, storeSize, State.setStore, State.store, RxChan.fill, eq_comm]
    · simp [hz, hi, State.memWrite, storeSize]

/-- The index a byte is stored at is inside the buffer wherever the cursor is (R192, R193). -/
theorem storeIndex_lt (p : Params) (c : RxChan) (hc : p.rxCap ≠ 0#8) (h : c.cur.toNat ≤ p.rxCap.toNat) :
    (storeIndex p c).toNat < p.rxCap.toNat := by
  unfold storeIndex
  split
  · bv_omega
  · bv_omega

/-- `RX.EOF` into a free channel. -/
theorem endOfFrame_free (b : Bus) (s : State) (h : (s.rx b).full = false) : endOfFrame b s = handOff b s := by
  simp [endOfFrame, h]

/-- `RX.EOF` into a full channel. -/
theorem endOfFrame_full (b : Bus) (s : State) (h : (s.rx b).full = true) : endOfFrame b s = overrun b s := by
  simp [endOfFrame, h]

theorem owned_iff (s : State) (b : Bus) : s.owned b = true ↔ (s.rx b).full = true ∧ (s.rx b).sig = false := by
  simp [State.owned]

@[simp] theorem store_latched (s : State) (b : Bus) : s.store (s.latchedSpace b) = (s.rx b).latched := rfl

/-- What `RX.RD` answers. -/
theorem readLatched_ok_iff (b : Bus) (i v : U8) (s : State) :
    readLatched b i s = .ok v ↔ s.owned b = true ∧ i.toNat < (s.rx b).flen.toNat ∧
      i.toNat < s.cfg.rxCap.toNat ∧ (s.rx b).latched.read i.toNat = some v := by
  unfold readLatched
  by_cases ho : s.owned b = true
  · by_cases hi : i.toNat < (s.rx b).flen.toNat
    · simp [ho, hi, show ¬ i.toNat ≥ (s.rx b).flen.toNat by omega, memRead_ok_iff]
      simp [State.latchedSpace, storeSize]
    · simp [ho, hi, show (s.rx b).flen.toNat ≤ i.toNat by omega]
  · simp [ho]

/-- What `RX.TAKE` does where it goes through: the frame's bytes are the latched buffer's, and the buffer is released. -/
theorem takeFrame_ok (b : Bus) (s t : State) (frame : List U8) (h : takeFrame b s = .ok (frame, t)) :
    s.owned b = true ∧ t = s.release b ∧ frame.length = (s.rx b).flen.toNat ∧
      ∀ j, j < frame.length → (s.rx b).latched.read j = frame[j]? := by
  unfold takeFrame at h
  split at h
  · rename_i ho
    split at h
    · cases h
    · rename_i f hf
      cases h
      obtain ⟨h1, h2, -⟩ := readBytes_ok s _ _ 0 _ hf
      exact ⟨ho, rfl, h1, fun j hj => by simpa using h2 j (by omega)⟩
  · cases h

/-- An owned channel whose frame is known gives it. -/
theorem takeFrame_of_holds (b : Bus) (s : State) (frame : List U8) (ho : s.owned b = true) (hf : s.HoldsFrame b frame) :
    takeFrame b s = .ok (frame, s.release b) := by
  obtain ⟨h1, h2, h3⟩ := hf
  have hr : s.readBytes (s.latchedSpace b) 0 frame.length = .ok frame :=
    readBytes_eq s _ frame 0 (by simpa [State.latchedSpace, storeSize] using h2) (by simpa using h3)
  simp [takeFrame, ho, h1, hr]

/-- An owned channel whose latched bytes are written gives some frame. -/
theorem takeFrame_of_written (b : Bus) (s : State) (ho : s.owned b = true)
    (hn : (s.rx b).flen.toNat ≤ s.cfg.rxCap.toNat) (hw : (s.rx b).latched.WrittenBelow (s.rx b).flen.toNat) :
    ∃ frame, takeFrame b s = .ok (frame, s.release b) := by
  obtain ⟨vs, h, -, -⟩ := readBytes_of_written s (s.latchedSpace b) (s.rx b).flen.toNat 0
    (by simpa [State.latchedSpace, storeSize] using hn) (fun j _ hj => hw j (by omega))
  exact ⟨vs, by simp [takeFrame, ho, h]⟩

/-- `RX.TAKE` without ownership is refused. -/
theorem takeFrame_not_owned (b : Bus) (s : State) (h : s.owned b = false) :
    takeFrame b s = .error (.refused .rxNotOwned) := by
  simp [takeFrame, h]

/-! ## The Addressed-Packet decoder -/

/-- A payload byte, where its index is inside the store (R139). -/
theorem armPayload_ok_iff (b : Bus) (byte : U8) (s t : State) (o : ApOutcome) :
    armPayload b byte s = .ok (o, t) ↔ (s.ap b).pos.toNat - 5 < 248 ∧ o = .notReady ∧
      t = s.setAp b { s.ap b with
        payload := (s.ap b).payload.write ((s.ap b).pos.toNat - 5) byte, pos := (s.ap b).pos + 1#8 } := by
  unfold armPayload
  by_cases h : (s.ap b).pos.toNat - 5 < 248
  · simp [State.memWrite, storeSize, apHdr, apMaxPayload, h, State.setStore, State.store, eq_comm]
  · simp [State.memWrite, storeSize, apHdr, apMaxPayload, h]

/-- The outcome of the last byte of a frame, by its payload (R141). -/
def endOutcome (p : Params) (d : ApDec) (byte : U8) (payload : List U8) : ApOutcome :=
  if crc16 p.crc16Reflect crc16SeedFrame ([d.src, d.dst, d.len, d.typ] ++ payload) ≠ half (hiByte d.crcRx) byte then .invalid
  else if d.dstBad then .wrongAddress
  else .ready (packetOf d payload (half (hiByte d.crcRx) byte))

/-- The last byte, where the payload can be read (R141). -/
theorem armCrcLow_ok_iff (b : Bus) (byte : U8) (s t : State) (o : ApOutcome) :
    armCrcLow b byte s = .ok (o, t) ↔ ∃ payload, s.readBytes (.payload b) 0 (s.ap b).len.toNat = .ok payload ∧
      o = endOutcome s.cfg (s.ap b) byte payload ∧
      t = s.setAp b { s.ap b with crcRx := half (hiByte (s.ap b).crcRx) byte, pos := 0#8, dstBad := false } := by
  unfold armCrcLow
  split
  · rename_i e he; simp [he]
  · rename_i payload hp
    simp only [hp, Except.ok.injEq, exists_eq_left', endOutcome, State.resetCursor, ap_setAp, setAp_setAp]
    split
    · simp [eq_comm]
    · split <;> simp [eq_comm]

/-- What `AP.DEC` does wherever it goes through: it writes its own instance only, and every terminal outcome leaves the
cursor at 0. -/
theorem apDecodeByte_ok (b : Bus) (byte : U8) (s t : State) (o : ApOutcome) (h : apDecodeByte b byte s = .ok (o, t)) :
    t = s.setAp b (t.ap b) ∧ (o = .notReady ∨ (t.ap b).pos = 0#8) := by
  simp only [apDecodeByte] at h
  repeat' split at h
  · rename_i h0
    simp only [armStart] at h
    split at h <;> cases h
    · simp
    · exact ⟨by simp, .inr (by bv_omega)⟩
  · cases h; simp
  · simp only [Except.ok.injEq, armDst, armDstConsume, armDstImmediate] at h
    split at h
    · cases h; simp
    · split at h <;> cases h <;> simp [State.resetCursor]
  · simp only [armLen] at h
    split at h <;> cases h <;> simp [State.resetCursor]
  · cases h; simp
  · obtain ⟨-, rfl, rfl⟩ := (armPayload_ok_iff b byte s t o).mp h; simp
  · cases h; simp
  · obtain ⟨payload, -, -, rfl⟩ := (armCrcLow_ok_iff b byte s t o).mp h; simp
  · cases h; simp [State.resetCursor]

/-- `AP.DEC` reads the parameters and its own instance only. -/
theorem apDecodeByte_congr (b : Bus) (byte : U8) (s s' t : State) (o : ApOutcome) (hc : s'.cfg = s.cfg)
    (ha : s'.ap b = s.ap b) (h : apDecodeByte b byte s = .ok (o, t)) :
    apDecodeByte b byte s' = .ok (o, s'.setAp b (t.ap b)) := by
  simp only [apDecodeByte] at h
  simp only [apDecodeByte, ha]
  by_cases h0 : (s.ap b).pos.toNat = 0
  · simp only [if_pos h0, Except.ok.injEq, armStart] at h ⊢
    split at h <;> cases h
    · rw [if_pos (by assumption)]; simp [ha]
    · rw [if_neg (by assumption), ← ha]; simp
  by_cases h1 : (s.ap b).pos.toNat = 1
  · simp only [if_neg h0, if_pos h1] at h ⊢
    cases h; simp [armSrc, ha]
  by_cases h2 : (s.ap b).pos.toNat = 2
  · simp only [if_neg h0, if_neg h1, if_pos h2, Except.ok.injEq, armDst, armDstConsume, armDstImmediate, hc, ha] at h ⊢
    split at h
    · cases h; simp
    · split at h <;> cases h <;> simp [State.resetCursor, *]
  by_cases h3 : (s.ap b).pos.toNat = 3
  · simp only [if_neg h0, if_neg h1, if_neg h2, if_pos h3, armLen] at h ⊢
    split at h <;> cases h <;> simp [State.resetCursor, *]
  by_cases h4 : (s.ap b).pos.toNat = 4
  · simp only [if_neg h0, if_neg h1, if_neg h2, if_neg h3, if_pos h4] at h ⊢
    cases h; simp [armType, ha]
  simp only [if_neg h0, if_neg h1, if_neg h2, if_neg h3, if_neg h4] at h ⊢
  by_cases h5 : (s.ap b).pos.toNat ≤ 4 + (s.ap b).len.toNat
  · rw [if_pos h5] at h ⊢
    obtain ⟨hp, rfl, rfl⟩ := (armPayload_ok_iff b byte s t o).mp h
    rw [ap_setAp]
    exact (armPayload_ok_iff b byte s' _ _).mpr ⟨by rw [ha]; exact hp, rfl, by rw [ha]⟩
  rw [if_neg h5] at h ⊢
  by_cases h6 : (s.ap b).pos.toNat = 5 + (s.ap b).len.toNat
  · rw [if_pos h6] at h ⊢
    cases h; simp [armCrcHigh, ha]
  rw [if_neg h6] at h ⊢
  by_cases h7 : (s.ap b).pos.toNat = 6 + (s.ap b).len.toNat
  · rw [if_pos h7] at h ⊢
    obtain ⟨payload, hp, rfl, rfl⟩ := (armCrcLow_ok_iff b byte s t o).mp h
    rw [ap_setAp]
    refine (armCrcLow_ok_iff b byte s' _ _).mpr ⟨payload, ?_, by rw [ha, hc], by rw [ha]⟩
    rw [ha]
    exact readBytes_congr s s' _ _ _ _ rfl payload (fun j _ _ => by simp [State.store, ha]) hp
  · rw [if_neg h7] at h ⊢
    cases h; simp [State.resetCursor, armBeyond, ha]

/-- `AP.ENC` where it goes through. -/
theorem apEncode_ok (p : Params) (src dst typ : U8) (payload : List U8) (hn : payload.length ≤ 248)
    (h1 : 1 ≤ typ.toNat) (h6 : typ.toNat ≤ 6) :
    apEncode p src dst typ payload = .ok (apFrameBytes src dst typ payload (frameCrc16 p src dst typ payload)) := by
  have hn' : ¬ payload.length > apMaxPayload := by simp only [apMaxPayload]; omega
  have ht : ¬ (typ.toNat < 1 ∨ typ.toNat > 6) := by omega
  simp only [apEncode, if_neg hn', if_neg ht]
  simp [apFrameBytes, frameCrc16, crc16SeedFrame]

/-! ## The Register-Access codec -/

/-- A request of two bytes. -/
theorem raDecode_two (addr crc : U8) :
    raDecode [addr, crc] = if crc8 0#8 [addr] ≠ crc then .frameError .badCrc else .ok (.read addr) := rfl

/-- A request of six bytes. -/
theorem raDecode_six (addr b3 b2 b1 b0 crc : U8) :
    raDecode [addr, b3, b2, b1, b0, crc]
      = if crc8 0#8 [addr, b3, b2, b1, b0] ≠ crc then .frameError .badCrc else .ok (.write addr (word b3 b2 b1 b0)) := rfl

/-- Any other length. -/
theorem raDecode_other (frame : List U8) (h2 : frame.length ≠ 2) (h6 : frame.length ≠ 6) :
    raDecode frame = .frameError .badLength := by
  unfold raDecode
  split <;> simp_all

/-- The four bytes of a value put together again. -/
theorem word_wordBytes (v : U32) :
    word (v.extractLsb' 24 8) (v.extractLsb' 16 8) (v.extractLsb' 8 8) (v.extractLsb' 0 8) = v := by
  apply BitVec.eq_of_toNat_eq
  simp only [word, BitVec.toNat_append, BitVec.extractLsb'_toNat, Nat.shiftLeft_eq, Nat.shiftRight_eq_div_pow]
  have := v.isLt
  rw [← Nat.shiftLeft_eq, ← Nat.shiftLeft_eq, ← Nat.shiftLeft_eq,
    ← Nat.shiftLeft_add_eq_or_of_lt (by omega), ← Nat.shiftLeft_add_eq_or_of_lt (by omega),
    ← Nat.shiftLeft_add_eq_or_of_lt (by omega)]
  simp only [Nat.shiftLeft_eq]
  omega

/-! ## The sequencer -/

/-- What serving a read emits (R223). -/
def readEvents (b : Bus) (a : U8) : ReadAnswer → List Event
  | .ok v => [.send b (raEncode a v)]
  | .notFound => [.log (.registerError b a .notFound)]

/-- What serving a write emits (R223). -/
def writeEvents (p : Params) (b : Bus) (a : U8) (v : U32) : WriteAnswer → List Event
  | .ok => if writeAckOf p b then [.send b (raEncode a v)] else []
  | .writeError => [.log (.registerError b a .writeError)]

/-- Serving a read: one call, one event, another environment. -/
theorem serveRead_spec (b : Bus) (a : U8) (s : State) : ∃ answer e,
    (∀ x xs, s.env.reads = x :: xs → answer = x) ∧
    serveRead b a s = { s with
      env := e, calls := s.calls ++ [.read a answer],
      events := s.events ++ readEvents b a answer } := by
  obtain ⟨r, e, h, hl⟩ := regRead_spec s a
  exact ⟨r, e, hl, by cases r <;> simp [serveRead, h, State.emit, readEvents]⟩

/-- Serving a write: one call, at most one event, another environment. -/
theorem serveWrite_spec (b : Bus) (a : U8) (v : U32) (s : State) : ∃ answer e,
    (∀ x xs, s.env.writes = x :: xs → answer = x) ∧
    serveWrite b a v s = { s with
      env := e, calls := s.calls ++ [.write a v answer],
      events := s.events ++ writeEvents s.cfg b a v answer } := by
  obtain ⟨r, e, h, hl⟩ := regWrite_spec s a v
  refine ⟨r, e, hl, ?_⟩
  cases r
  · by_cases hw : writeAckOf s.cfg b = true <;> simp [serveWrite, h, hw, State.emit, writeEvents]
  · simp [serveWrite, h, State.emit, writeEvents]

/-- What the register path can do: calls and events of its own bus on record, another environment, nothing else. -/
theorem registerPath_spec (b : Bus) (frame : List U8) (s : State) : ∃ e cs es,
    registerPath b frame s = { s with env := e, calls := s.calls ++ cs, events := s.events ++ es } ∧
      ∀ ev ∈ es, eventBus ev = some b := by
  unfold registerPath
  split
  · exact ⟨s.env, [], _, by simp [State.emit]; rfl, by simp [eventBus]⟩
  · rename_i a _
    obtain ⟨r, e, -, h⟩ := serveRead_spec b a s
    exact ⟨e, _, _, h, by cases r <;> simp [eventBus, readEvents]⟩
  · rename_i a v _
    obtain ⟨r, e, -, h⟩ := serveWrite_spec b a v s
    exact ⟨e, _, _, h, by
      cases r
      · simp only [writeEvents]; split <;> simp [eventBus]
      · simp [writeEvents, eventBus]⟩

/-- What is done with one outcome of `AP.DEC`: calls and events of the bus on record, another environment, nothing else. -/
theorem actOnOutcome_spec (b : Bus) (o : ApOutcome) (s : State) : ∃ e cs es,
    actOnOutcome b o s = { s with env := e, calls := s.calls ++ cs, events := s.events ++ es } ∧
      ∀ ev ∈ es, eventBus ev = some b := by
  cases o with
  | notReady => exact ⟨s.env, [], [], by simp [actOnOutcome], by simp⟩
  | invalid => exact ⟨s.env, [], _, by simp [actOnOutcome, State.emit]; rfl, by simp [eventBus]⟩
  | wrongAddress => exact ⟨s.env, [], _, by simp [actOnOutcome, State.emit]; rfl, by simp [eventBus]⟩
  | error => exact ⟨s.env, [], _, by simp [actOnOutcome, State.emit]; rfl, by simp [eventBus]⟩
  | ready p =>
    simp only [actOnOutcome, servePacket]
    split
    · exact ⟨s.env, [], _, by simp [State.emit]; rfl, by simp [eventBus]⟩
    · rename_i op _
      obtain ⟨c, e, h, -⟩ := regCall_spec (s.emit (.packetReady b p)) op
      simp only [h, answerPacket]
      cases regFailureCause c.answer with
      | none =>
        dsimp only
        split
        · exact ⟨e, [c], _, rfl, by simp [eventBus]⟩
        · rename_i bytes _
          exact ⟨e, [c], [.packetReady b p, .send b bytes], by simp [State.emit], by simp [eventBus]⟩
      | some cause =>
        dsimp only
        split
        · exact ⟨e, [c], [.packetReady b p, .log (.registerError b (regAddr op) cause)], by simp [State.emit],
            by simp [eventBus]⟩
        · rename_i bytes _
          exact ⟨e, [c], [.packetReady b p, .log (.registerError b (regAddr op) cause), .send b bytes],
            by simp [State.emit], by simp [eventBus]⟩

/-- After the register call of a packet: the log of a failed call, then the response (R226). -/
theorem answerPacket_spec (b : Bus) (p : Packet) (c : RegCall) (s : State) :
    answerPacket b p c.op c.answer s = { s with events := s.events ++ callLog b c ++ responseOf s.cfg b p c.answer } := by
  rcases c with ⟨a, _ | _⟩ | ⟨a, v, _ | _⟩ <;>
    simp only [answerPacket, RegCall.op, RegCall.answer, regFailureCause, callLog, responseOf, graphAt_eq_lookup, regAddr,
      logRegister_eq] <;>
    split <;> simp [State.emit, *]

/-- What the sequencer does with one outcome: the register call `AP_REGOP` asks for and the events of R226. -/
theorem actOnOutcome_events (b : Bus) (o : ApOutcome) (s : State) : ∃ cs e,
    actOnOutcome b o s
      = { s with env := e, calls := s.calls ++ cs, events := s.events ++ packetEvents s.cfg b [o] cs } ∧
    cs.map RegCall.op = [o].filterMap (outcomeRegop s.cfg) ∧
    CallsDrawnFrom cs s.env e ∧ (cs = [] → e = s.env) := by
  cases o with
  | notReady => exact ⟨[], s.env, by simp [actOnOutcome, packetEvents], rfl, callsDrawnFrom_nil _, fun _ => rfl⟩
  | invalid =>
    exact ⟨[], s.env, by simp [actOnOutcome, packetEvents, State.emit], rfl, callsDrawnFrom_nil _, fun _ => rfl⟩
  | wrongAddress =>
    exact ⟨[], s.env, by simp [actOnOutcome, packetEvents, State.emit], rfl, callsDrawnFrom_nil _, fun _ => rfl⟩
  | error =>
    exact ⟨[], s.env, by simp [actOnOutcome, packetEvents, State.emit], rfl, callsDrawnFrom_nil _, fun _ => rfl⟩
  | ready p =>
    cases h : s.cfg.apRegop.lookup p with
    | none =>
      exact ⟨[], s.env, by simp [actOnOutcome, servePacket, graphAt_eq_lookup, h, packetEvents, State.emit],
        by simp [outcomeRegop, h], callsDrawnFrom_nil _, fun _ => rfl⟩
    | some op =>
      obtain ⟨c, e, hc, rfl, hd⟩ := regCall_spec (s.emit (.packetReady b p)) op
      refine ⟨[c], e, ?_, by simp [outcomeRegop, h], hd, by simp⟩
      simp [actOnOutcome, servePacket, graphAt_eq_lookup, h, packetEvents, hc, answerPacket_spec]

/-- The events of a raw frame are those of its first outcome and then those of the rest. -/
theorem packetEvents_cons (p : Params) (b : Bus) (o : ApOutcome) (os : List ApOutcome) (cs cs' : List RegCall)
    (h : cs.map RegCall.op = [o].filterMap (outcomeRegop p)) :
    packetEvents p b (o :: os) (cs ++ cs') = packetEvents p b [o] cs ++ packetEvents p b os cs' := by
  cases o with
  | ready packet =>
    cases hl : p.apRegop.lookup packet with
    | none =>
      have : cs = [] := by simpa [outcomeRegop, hl] using h
      simp [packetEvents, hl, this]
    | some op =>
      obtain ⟨c, rfl⟩ : ∃ c, cs = [c] := by
        rw [← List.length_eq_one_iff, ← List.length_map (f := RegCall.op), h]
        simp [outcomeRegop, hl]
      simp [packetEvents, hl]
  | notReady | invalid | wrongAddress | error =>
    have : cs = [] := List.map_eq_nil_iff.mp h
    simp [packetEvents, this]

/-- What the packet path can do where it goes through: its own decoder instance, calls and events of its own bus on record,
another environment, nothing else. -/
theorem packetPath_ok (b : Bus) (frame : List U8) (s t : State) (h : packetPath b frame s = .ok t) : ∃ d e cs es,
    t = { s.setAp b d with env := e, calls := s.calls ++ cs, events := s.events ++ es } ∧
      ∀ ev ∈ es, eventBus ev = some b := by
  induction frame generalizing s with
  | nil =>
    cases h
    exact ⟨t.ap b, t.env, [], [], by simp, by simp⟩
  | cons byte rest ih =>
    simp only [packetPath] at h
    split at h
    · cases h
    · rename_i o s1 hs
      obtain ⟨h1, -⟩ := apDecodeByte_ok b byte s s1 o hs
      obtain ⟨e1, cs1, es1, h2, h2e⟩ := actOnOutcome_spec b o s1
      obtain ⟨d, e, cs, es, h3, h3e⟩ := ih _ h
      rw [h2, h1] at h3
      refine ⟨d, e, cs1 ++ cs, es1 ++ es, ?_, ?_⟩
      · rw [h3]; cases b <;> simp [State.setAp]
      · intro ev hev
        rcases List.mem_append.mp hev with hev | hev
        · exact h2e ev hev
        · exact h3e ev hev

/-- What serving a raw frame can do where it goes through, on either codec. -/
theorem serveFrame_ok (b : Bus) (frame : List U8) (s t : State) (h : serveFrame b frame s = .ok t) : ∃ d e cs es,
    t = { s.setAp b d with env := e, calls := s.calls ++ cs, events := s.events ++ es } ∧
      ∀ ev ∈ es, eventBus ev = some b := by
  unfold serveFrame at h
  split at h
  · cases h
    obtain ⟨e, cs, es, h1, h2⟩ := registerPath_spec b frame s
    exact ⟨s.ap b, e, cs, es, by simp [h1], h2⟩
  · exact packetPath_ok b frame s t h

/-- What the services owed are: both buses in one of the two orders, or the one bus whose bit is set. -/
theorem oweServices_spec (s : State) (m : BitVec 2) : ∃ todo e,
    s.oweServices m = { s with env := e, ctl := .serving todo } ∧ todo.Nodup ∧
    (Bus.bus0 ∈ todo ↔ m.getLsbD 0 = true) ∧ (Bus.bus1 ∈ todo ↔ m.getLsbD 1 = true) ∧
    (∀ up us, m = 3#2 → s.env.orders = up :: us →
      todo = if up then [Bus.bus0, Bus.bus1] else [Bus.bus1, Bus.bus0]) := by
  by_cases h3 : m = 3#2
  · obtain ⟨r, e, h, hl⟩ := drawAscending_spec s
    refine ⟨servicesOf m r, e, by simp [State.oweServices, h3, h, State.withCtl], ?_, ?_, ?_, ?_⟩
    · subst h3; cases r <;> decide
    · subst h3; cases r <;> decide
    · subst h3; cases r <;> decide
    · intro up us _ ho
      obtain ⟨rfl, -⟩ := hl up us ho
      subst h3; cases r <;> decide
  · refine ⟨servicesOf m true, s.env, by simp [State.oweServices, h3, State.withCtl], ?_, ?_, ?_, ?_⟩
    · revert h3 m; decide
    · revert h3 m; decide
    · revert h3 m; decide
    · intro up us h; exact absurd h h3

end Sys2Proof.Machine
end

