-- ==== Sys2Proof/Laws/PerInstr.lean ====
section
/-! SUPPORT. A family of statements about every instruction as syntax: its request is of its own row of
spec/opcode_table.json (30_encoding.md R96, R97). -/

namespace Sys2Proof.Laws.EncodesItsRow

/-- What a row of the table says of a request (R97): an operation's 6-bit code; the START byte, TYPE and length of an
Addressed Packet; the length and direction of a Register-Access frame. -/
inductive Row where
  | op (code : BitVec 6)
  | ap (typ : U8)
  | ra (length : Nat)
  | resp
deriving DecidableEq, Repr

/-- The row of an instruction. -/
def rowOf : Instr → Row
  | .crc16 _ _ => .op 0b000000#6
  | .crc8 _ _ => .op 0b000001#6
  | .apDec _ _ => .op 0b001000#6
  | .apRst _ => .op 0b001001#6
  | .apEnc _ _ _ _ => .op 0b001010#6
  | .apMkpkt _ _ _ => .op 0b001011#6
  | .apMkcmd _ _ _ => .op 0b001100#6
  | .apMkack _ => .op 0b001101#6
  | .apMknack _ => .op 0b001110#6
  | .raDec _ => .op 0b010000#6
  | .raEnc _ _ => .op 0b010001#6
  | .rxByte _ _ => .op 0b011000#6
  | .rxEof _ => .op 0b011001#6
  | .sigWait => .op 0b011010#6
  | .rxRd _ _ => .op 0b011011#6
  | .rxRel _ => .op 0b011100#6
  | .rxTake _ => .op 0b011101#6
  | .dspStep => .op 0b100000#6
  | .dspSvc _ => .op 0b100001#6
  | .apData _ _ _ _ _ => .ap 1#8
  | .apDataAck _ _ _ _ _ => .ap 2#8
  | .apCmd _ _ _ _ _ => .ap 3#8
  | .apCmdAck _ _ _ _ _ => .ap 4#8
  | .apAck _ _ _ _ _ => .ap 5#8
  | .apNack _ _ _ _ _ => .ap 6#8
  | .raRead _ _ _ => .ra 2
  | .raWrite _ _ _ _ => .ra 6
  | .raResp _ _ _ => .resp

/-- A request is of a row. -/
def Row.Holds : Row → Request → Prop
  | .op code, r => r.port = .op ∧ ∃ rest, r.bytes = code.setWidth 8 :: rest
  | .ap typ, r => ∃ b src dst len rest,
      r = ⟨.frameIn b, 0x7E#8 :: src :: dst :: len :: typ :: rest⟩ ∧ len.toNat ≤ 248 ∧ rest.length = len.toNat + 2
  | .ra n, r => ∃ b, r.port = .frameIn b ∧ r.bytes.length = n
  | .resp, r => ∃ b, r.port = .frameOut b ∧ r.bytes.length = 6

/-- The statement of the family. -/
def Statement (i : Instr) : Prop := WellFormed i = true → (rowOf i).Holds (encode i)

/-- The six Addressed-Packet rows at once. -/
theorem apFrame (b : Bus) (src dst typ : U8) (payload : List U8) (crc : U16) (h : payloadFits payload = true) :
    (Row.ap typ).Holds ⟨.frameIn b, apFrameBytes src dst typ payload crc⟩ := by
  have hn : payload.length ≤ 248 := of_decide_eq_true h
  have hl : (BitVec.ofNat 8 payload.length).toNat = payload.length := by
    rw [BitVec.toNat_ofNat]; exact Nat.mod_eq_of_lt (by omega)
  refine ⟨b, src, dst, BitVec.ofNat 8 payload.length, payload ++ [Machine.hiByte crc, Machine.loByte crc], ?_, by omega, ?_⟩
  · simp [apFrameBytes, apSof]
  · simp [hl]

theorem crc16 (seed : U16) (data : List U8) : Statement (.crc16 seed data) := fun _ => ⟨rfl, _, rfl⟩
theorem crc8 (seed : U8) (data : List U8) : Statement (.crc8 seed data) := fun _ => ⟨rfl, _, rfl⟩
theorem apDec (b : Bus) (byte : U8) : Statement (.apDec b byte) := fun _ => ⟨rfl, _, rfl⟩
theorem apRst (b : Bus) : Statement (.apRst b) := fun _ => ⟨rfl, _, rfl⟩
theorem apEnc (src : U8) (dst : U8) (typ : U8) (payload : List U8) : Statement (.apEnc src dst typ payload) := fun _ => ⟨rfl, _, rfl⟩
theorem apMkpkt (payload : List U8) (dest : U8) (typ : U8) : Statement (.apMkpkt payload dest typ) := fun _ => ⟨rfl, _, rfl⟩
theorem apMkcmd (cmd : U8) (dest : U8) (ack : Bool) : Statement (.apMkcmd cmd dest ack) := fun _ => ⟨rfl, _, rfl⟩
theorem apMkack (dest : U8) : Statement (.apMkack dest) := fun _ => ⟨rfl, _, rfl⟩
theorem apMknack (dest : U8) : Statement (.apMknack dest) := fun _ => ⟨rfl, _, rfl⟩
theorem raDec (frame : List U8) : Statement (.raDec frame) := fun _ => ⟨rfl, _, rfl⟩
theorem raEnc (addr : U8) (value : U32) : Statement (.raEnc addr value) := fun _ => ⟨rfl, _, rfl⟩
theorem rxByte (b : Bus) (v : U8) : Statement (.rxByte b v) := fun _ => ⟨rfl, _, rfl⟩
theorem rxEof (b : Bus) : Statement (.rxEof b) := fun _ => ⟨rfl, _, rfl⟩
theorem sigWait : Statement .sigWait := fun _ => ⟨rfl, _, rfl⟩
theorem rxRd (b : Bus) (i : U8) : Statement (.rxRd b i) := fun _ => ⟨rfl, _, rfl⟩
theorem rxRel (b : Bus) : Statement (.rxRel b) := fun _ => ⟨rfl, _, rfl⟩
theorem rxTake (b : Bus) : Statement (.rxTake b) := fun _ => ⟨rfl, _, rfl⟩
theorem dspStep : Statement .dspStep := fun _ => ⟨rfl, _, rfl⟩
theorem dspSvc (b : Bus) : Statement (.dspSvc b) := fun _ => ⟨rfl, _, rfl⟩
theorem apData (b : Bus) (src dst : U8) (payload : List U8) (crc : U16) : Statement (.apData b src dst payload crc) :=
  fun h => apFrame b src dst 1#8 payload crc h
theorem apDataAck (b : Bus) (src dst : U8) (payload : List U8) (crc : U16) : Statement (.apDataAck b src dst payload crc) :=
  fun h => apFrame b src dst 2#8 payload crc h
theorem apCmd (b : Bus) (src dst : U8) (payload : List U8) (crc : U16) : Statement (.apCmd b src dst payload crc) :=
  fun h => apFrame b src dst 3#8 payload crc h
theorem apCmdAck (b : Bus) (src dst : U8) (payload : List U8) (crc : U16) : Statement (.apCmdAck b src dst payload crc) :=
  fun h => apFrame b src dst 4#8 payload crc h
theorem apAck (b : Bus) (src dst : U8) (payload : List U8) (crc : U16) : Statement (.apAck b src dst payload crc) :=
  fun h => apFrame b src dst 5#8 payload crc h
theorem apNack (b : Bus) (src dst : U8) (payload : List U8) (crc : U16) : Statement (.apNack b src dst payload crc) :=
  fun h => apFrame b src dst 6#8 payload crc h
theorem raRead (b : Bus) (addr crc : U8) : Statement (.raRead b addr crc) := fun _ => ⟨b, rfl, rfl⟩
theorem raWrite (b : Bus) (addr : U8) (value : U32) (crc : U8) : Statement (.raWrite b addr value crc) :=
  fun _ => ⟨b, rfl, rfl⟩
theorem raResp (b : Bus) (addr : U8) (value : U32) : Statement (.raResp b addr value) := fun _ => ⟨b, rfl, rfl⟩

end Sys2Proof.Laws.EncodesItsRow
end

