-- ==== Sys2Proof/Tests/Slice0.lean ====
section
/-! SUPPORT. Tests: the well-formedness checks, every constructor's decoding from bytes written out from 30_encoding.md, one
step of every instruction against a vector of 95_test_vectors.md, and for every statement that has hypotheses a concrete
state and operands that meet them. -/

namespace Sys2Proof.Machine.Tests

-- One test at a time: each waits for the kernel, and each that waits holds a thread.
set_option Elab.async false

/-! ## Helpers -/

/-- Bytes placed from an index on. -/
def cellsFrom : Nat → List U8 → Memory
  | _, [] => []
  | i, v :: vs => (i, v) :: cellsFrom (i + 1) vs

/-- Reset, with the decoder of bus 0 at a position, the header of the frames of section 3 of 95_test_vectors.md read. -/
def apAt (pos len typ : U8) (crcRx : U16) (payload : List U8) : State :=
  State.reset.setAp .bus0
    { pos := pos, src := 0x02#8, dst := 0x01#8, len := len, typ := typ, crcRx := crcRx, dstBad := false,
      payload := cellsFrom 0 payload }

/-- Reset, with a frame handed off on a bus into the buffer the consumer reads. -/
def held (b : Bus) (frame : List U8) (sig : Bool) : State :=
  State.reset.setRx b
    { RxChan.reset with
      wsel := .buf1, flen := BitVec.ofNat 8 frame.length, full := true, sig := sig, buf0 := cellsFrom 0 frame }

/-- A state with other parameters. -/
def withCfg (p : Params) (s : State) : State := { s with cfg := p }

/-- A state with the register table's answers listed. -/
def withAnswers (rs : List ReadAnswer) (ws : List WriteAnswer) (s : State) : State :=
  { s with env := { s.env with reads := rs, writes := ws } }

/-- A state whose next wait with no signal times out. -/
def withTimeout (v : Bool) (s : State) : State := { s with env := { s.env with timeouts := [v] } }

/-- One value of the next state, where there is one. -/
def onNext {α : Type} (x : Answer) (f : State → α) : Option α :=
  match x with
  | .next t => some (f t)
  | .fault _ => none
  | .refused _ => none

/-- The refusal, where there is one. -/
def refusalOf (x : Answer) : Option Refusal :=
  match x with
  | .next _ => none
  | .fault _ => none
  | .refused r => some r

/-- The decoder reads this instruction from these bytes. -/
def reads (port : Port) (bytes : List U8) (i : Instr) : Bool :=
  match decode ⟨port, bytes⟩ with
  | .ok j => decide (j = i)
  | .error _ => false

/-- A channel as section 6 of 95_test_vectors.md writes it: cur, wsel, flen, full, sig. -/
def shown (c : RxChan) : U8 × BufSel × U8 × Bool × Bool := (c.cur, c.wsel, c.flen, c.full, c.sig)

/-! ## Well-formedness -/

theorem test_wf_refuses_raw_frame_of_256 : WellFormed (.raDec (List.replicate 256 0#8)) = false := by decide +kernel
theorem test_wf_refuses_data_of_249 :
    WellFormed (.apData .bus0 0#8 0#8 (List.replicate 249 0#8) 0#16) = false := by decide +kernel
theorem test_wf_refuses_data_ack_of_249 :
    WellFormed (.apDataAck .bus0 0#8 0#8 (List.replicate 249 0#8) 0#16) = false := by decide +kernel
theorem test_wf_refuses_cmd_of_249 :
    WellFormed (.apCmd .bus0 0#8 0#8 (List.replicate 249 0#8) 0#16) = false := by decide +kernel
theorem test_wf_refuses_cmd_ack_of_249 :
    WellFormed (.apCmdAck .bus0 0#8 0#8 (List.replicate 249 0#8) 0#16) = false := by decide +kernel
theorem test_wf_refuses_ack_of_249 :
    WellFormed (.apAck .bus0 0#8 0#8 (List.replicate 249 0#8) 0#16) = false := by decide +kernel
theorem test_wf_refuses_nack_of_249 :
    WellFormed (.apNack .bus0 0#8 0#8 (List.replicate 249 0#8) 0#16) = false := by decide +kernel

/-! ## Decoding, every constructor: the codes of R96, the layouts of R81, R88 and R89 -/

theorem test_decode_crc16 : reads .op [0b000000#8, 0x12#8, 0x34#8, 0x02#8] (.crc16 0x1234#16 [0x02#8]) = true := by decide +kernel
theorem test_decode_crc8 : reads .op [0b000001#8, 0x5A#8, 0x00#8] (.crc8 0x5A#8 [0x00#8]) = true := by decide +kernel
theorem test_decode_ap_dec : reads .op [0b001000#8, 0x01#8, 0x7E#8] (.apDec .bus1 0x7E#8) = true := by decide +kernel
theorem test_decode_ap_rst : reads .op [0b001001#8, 0x00#8] (.apRst .bus0) = true := by decide +kernel
theorem test_decode_ap_enc :
    reads .op [0b001010#8, 0x02#8, 0x03#8, 0x01#8, 0xAA#8] (.apEnc 0x02#8 0x03#8 0x01#8 [0xAA#8]) = true := by decide +kernel
theorem test_decode_ap_mkpkt :
    reads .op [0b001011#8, 0x02#8, 0x01#8, 0xDE#8] (.apMkpkt [0xDE#8] 0x02#8 0x01#8) = true := by decide +kernel
theorem test_decode_ap_mkcmd :
    reads .op [0b001100#8, 0x55#8, 0x02#8, 0x01#8] (.apMkcmd 0x55#8 0x02#8 true) = true := by decide +kernel
theorem test_decode_ap_mkack : reads .op [0b001101#8, 0x02#8] (.apMkack 0x02#8) = true := by decide +kernel
theorem test_decode_ap_mknack : reads .op [0b001110#8, 0x02#8] (.apMknack 0x02#8) = true := by decide +kernel
theorem test_decode_ra_dec : reads .op [0b010000#8, 0x10#8, 0x70#8] (.raDec [0x10#8, 0x70#8]) = true := by decide +kernel
theorem test_decode_ra_enc :
    reads .op [0b010001#8, 0x10#8, 0x12#8, 0x34#8, 0x56#8, 0x78#8] (.raEnc 0x10#8 0x12345678#32) = true := by decide +kernel
theorem test_decode_rx_byte : reads .op [0b011000#8, 0x00#8, 0x10#8] (.rxByte .bus0 0x10#8) = true := by decide +kernel
theorem test_decode_rx_eof : reads .op [0b011001#8, 0x01#8] (.rxEof .bus1) = true := by decide +kernel
theorem test_decode_sig_wait : reads .op [0b011010#8] .sigWait = true := by decide +kernel
theorem test_decode_rx_rd : reads .op [0b011011#8, 0x00#8, 0x02#8] (.rxRd .bus0 0x02#8) = true := by decide +kernel
theorem test_decode_rx_rel : reads .op [0b011100#8, 0x00#8] (.rxRel .bus0) = true := by decide +kernel
theorem test_decode_rx_take : reads .op [0b011101#8, 0x00#8] (.rxTake .bus0) = true := by decide +kernel
theorem test_decode_dsp_step : reads .op [0b100000#8] .dspStep = true := by decide +kernel
theorem test_decode_dsp_svc : reads .op [0b100001#8, 0x01#8] (.dspSvc .bus1) = true := by decide +kernel
theorem test_decode_ap_data :
    reads (.frameIn .bus0) [0x7E#8, 0x02#8, 0x03#8, 0x01#8, 0x01#8, 0xAA#8, 0x7A#8, 0x11#8]
      (.apData .bus0 0x02#8 0x03#8 [0xAA#8] 0x7A11#16) = true := by decide +kernel
theorem test_decode_ap_data_ack :
    reads (.frameIn .bus0) [0x7E#8, 0x02#8, 0x01#8, 0x01#8, 0x02#8, 0x00#8, 0x63#8, 0x5F#8]
      (.apDataAck .bus0 0x02#8 0x01#8 [0x00#8] 0x635F#16) = true := by decide +kernel
theorem test_decode_ap_cmd :
    reads (.frameIn .bus0) [0x7E#8, 0x01#8, 0x02#8, 0x01#8, 0x03#8, 0x55#8, 0x47#8, 0xAE#8]
      (.apCmd .bus0 0x01#8 0x02#8 [0x55#8] 0x47AE#16) = true := by decide +kernel
theorem test_decode_ap_cmd_ack :
    reads (.frameIn .bus0) [0x7E#8, 0x01#8, 0x02#8, 0x01#8, 0x04#8, 0x55#8, 0x0A#8, 0xA6#8]
      (.apCmdAck .bus0 0x01#8 0x02#8 [0x55#8] 0x0AA6#16) = true := by decide +kernel
theorem test_decode_ap_ack :
    reads (.frameIn .bus0) [0x7E#8, 0x02#8, 0x01#8, 0x00#8, 0x05#8, 0x34#8, 0x07#8]
      (.apAck .bus0 0x02#8 0x01#8 [] 0x3407#16) = true := by decide +kernel
theorem test_decode_ap_nack :
    reads (.frameIn .bus1) [0x7E#8, 0x7E#8, 0x01#8, 0x00#8, 0x06#8, 0xCB#8, 0xED#8]
      (.apNack .bus1 0x7E#8 0x01#8 [] 0xCBED#16) = true := by decide +kernel
theorem test_decode_ra_read : reads (.frameIn .bus1) [0x10#8, 0x70#8] (.raRead .bus1 0x10#8 0x70#8) = true := by decide +kernel
theorem test_decode_ra_write :
    reads (.frameIn .bus1) [0x20#8, 0x00#8, 0x00#8, 0x00#8, 0x01#8, 0x63#8]
      (.raWrite .bus1 0x20#8 0x00000001#32 0x63#8) = true := by decide +kernel
theorem test_decode_ra_resp :
    reads (.frameOut .bus1) [0x10#8, 0x12#8, 0x34#8, 0x56#8, 0x78#8, 0x2E#8] (.raResp .bus1 0x10#8 0x12345678#32) = true := by
  decide +kernel

/-- A frame from the block with a wrong checksum is no response (R91). -/
theorem test_decode_ra_resp_crc :
    decide (decode ⟨.frameOut .bus1, [0x10#8, 0x12#8, 0x34#8, 0x56#8, 0x78#8, 0x2F#8]⟩ matches .error .badCrc) = true := by
  decide +kernel

/-- A LEN of 249 is no frame (R93 b). -/
theorem test_decode_len_249 :
    decide (decode ⟨.frameIn .bus0, [0x7E#8, 0#8, 0#8, 0xF9#8, 1#8, 0#8, 0#8]⟩ matches .error (.lenTooLarge _)) = true := by
  decide +kernel

/-- Bus number 2 is no bus (refusal F7). -/
theorem test_decode_bus_2 : decide (decode ⟨.op, [0b011001#8, 2#8]⟩ matches .error (.badBus _)) = true := by decide +kernel

/-! ### Words as the table numbers them (R97) -/

theorem test_table_word_port : decodeTableWord 8 0b100001 = some (.dspSvc .bus0) := by decide +kernel
theorem test_table_word_ap : decodeTableWord 40 0x7E00000003 = some (.apCmd .bus0 0#8 0#8 [] 0#16) := by decide +kernel
theorem test_table_word_ra2 : decodeTableWord 16 0x1070 = some (.raRead .bus1 0x10#8 0x70#8) := by decide +kernel
theorem test_table_word_ra6 :
    decodeTableWord 48 0x10DEADBEEFF8 = some (.raWrite .bus1 0x10#8 0xDEADBEEF#32 0xF8#8) := by decide +kernel

/-! ## One step of each instruction (vector numbers of 95_test_vectors.md) -/

/-- K14. -/
theorem test_crc16_reflected :
    onNext (exec (.crc16 0#16 [0x02#8, 0x01#8, 0x00#8, 0x05#8]) State.reset) State.result = some (.crc16 0x3407#16) := by
  decide +kernel

/-- K14, the form of R113. -/
theorem test_crc16_msb_first :
    onNext (exec (.crc16 0#16 [0x02#8, 0x01#8, 0x00#8, 0x05#8])
      (withCfg { Params.default with crc16Reflect := false } State.reset)) State.result = some (.crc16 0x8AFD#16) := by
  decide +kernel

/-- K33. -/
theorem test_crc8 :
    onNext (exec (.crc8 0x5A#8 [0x10#8, 0xDE#8, 0xAD#8, 0xBE#8, 0xEF#8]) State.reset) State.result = some (.crc8 0xDF#8) := by
  decide +kernel

/-- A1, last byte. -/
theorem test_ap_dec_ready :
    onNext (exec (.apDec .bus0 0x07#8) (apAt 6#8 0#8 5#8 0x3400#16 [])) (fun t => (t.result, (t.ap .bus0).pos))
      = some (.ap (.ready ⟨0x02#8, 0x01#8, 0#8, 5#8, [], 0x3407#16⟩), 0#8) := by
  decide +kernel

/-- A17: the arm no run reaches. -/
theorem test_ap_dec_error :
    onNext (exec (.apDec .bus0 0#8) (apAt 9#8 0#8 0#8 0#16 [])) (fun t => (t.result, (t.ap .bus0).pos))
      = some (.ap .error, 0#8) := by
  decide +kernel

/-- A16. -/
theorem test_ap_rst :
    onNext (exec (.apRst .bus0) (apAt 5#8 4#8 1#8 0#16 [])) (fun t => ((t.ap .bus0).pos, (t.ap .bus0).len, (t.ap .bus0).typ))
      = some (0#8, 4#8, 1#8) := by
  decide +kernel

/-- E3. -/
theorem test_ap_enc :
    onNext (exec (.apEnc 0x02#8 0x03#8 1#8 [0xAA#8]) State.reset) State.result
      = some (.frame [0x7E#8, 0x02#8, 0x03#8, 0x01#8, 0x01#8, 0xAA#8, 0x7A#8, 0x11#8]) := by
  decide +kernel

/-- E11. -/
theorem test_ap_enc_bad_type :
    refusalOf (exec (.apEnc 0x02#8 0x01#8 7#8 [0x01#8]) State.reset) = some .encBadType := by
  decide +kernel

/-- E12. -/
theorem test_ap_mkpkt :
    onNext (exec (.apMkpkt [0xDE#8, 0xAD#8, 0xBE#8, 0xEF#8] 0x02#8 1#8) State.reset) State.result
      = some (.frame [0x7E#8, 0x01#8, 0x02#8, 0x04#8, 0x01#8, 0xDE#8, 0xAD#8, 0xBE#8, 0xEF#8, 0xB4#8, 0xF9#8]) := by
  decide +kernel

/-- E13. -/
theorem test_ap_mkcmd_plain :
    onNext (exec (.apMkcmd 0x55#8 0x02#8 false) State.reset) State.result
      = some (.frame [0x7E#8, 0x01#8, 0x02#8, 0x01#8, 0x03#8, 0x55#8, 0x47#8, 0xAE#8]) := by
  decide +kernel

/-- E14. -/
theorem test_ap_mkcmd_ack :
    onNext (exec (.apMkcmd 0x55#8 0x02#8 true) State.reset) State.result
      = some (.frame [0x7E#8, 0x01#8, 0x02#8, 0x01#8, 0x04#8, 0x55#8, 0x0A#8, 0xA6#8]) := by
  decide +kernel

/-- E15. -/
theorem test_ap_mkack :
    onNext (exec (.apMkack 0x02#8) State.reset) State.result
      = some (.frame [0x7E#8, 0x01#8, 0x02#8, 0x00#8, 0x05#8, 0xFE#8, 0xAE#8]) := by
  decide +kernel

/-- E16. -/
theorem test_ap_mknack :
    onNext (exec (.apMknack 0x02#8) State.reset) State.result
      = some (.frame [0x7E#8, 0x01#8, 0x02#8, 0x00#8, 0x06#8, 0xCC#8, 0x35#8]) := by
  decide +kernel

/-- B16. -/
theorem test_ra_dec_write :
    onNext (exec (.raDec [0x20#8, 0#8, 0#8, 0#8, 0x01#8, 0x63#8]) State.reset) State.result
      = some (.ra (.ok (.write 0x20#8 1#32))) := by
  decide +kernel

/-- B7. -/
theorem test_ra_dec_length :
    onNext (exec (.raDec [0x10#8, 0x70#8, 0#8]) State.reset) State.result = some (.ra (.frameError .badLength)) := by
  decide +kernel

/-- B18. -/
theorem test_ra_enc :
    onNext (exec (.raEnc 0x10#8 0x12345678#32) State.reset) State.result
      = some (.frame [0x10#8, 0x12#8, 0x34#8, 0x56#8, 0x78#8, 0x2E#8]) := by
  decide +kernel

/-- H2. -/
theorem test_rx_byte :
    onNext (exec (.rxByte .bus0 0x70#8) (State.reset.setRx .bus0 { RxChan.reset with cur := 1#8, buf0 := [(0, 0x10#8)] }))
      (fun t => (shown (t.rx .bus0), (t.rx .bus0).buf0))
      = some ((2#8, .buf0, 0#8, false, false), [(0, 0x10#8), (1, 0x70#8)]) := by
  decide +kernel

/-- H19: the wrap. -/
theorem test_rx_byte_wraps :
    onNext (exec (.rxByte .bus0 0xAB#8) (State.reset.setRx .bus0 { RxChan.reset with cur := 255#8, buf0 := [(0, 0x10#8)] }))
      (fun t => (shown (t.rx .bus0), (t.rx .bus0).buf0))
      = some ((1#8, .buf0, 0#8, false, false), [(0, 0xAB#8)]) := by
  decide +kernel

/-- H15. -/
theorem test_rx_eof_hands_off :
    onNext (exec (.rxEof .bus0) (State.reset.setRx .bus0 { RxChan.reset with cur := 2#8, wsel := .buf1, flen := 2#8 }))
      (fun t => (shown (t.rx .bus0), t.events)) = some ((0#8, .buf0, 2#8, true, true), [.wake .bus0]) := by
  decide +kernel

/-- H14. -/
theorem test_rx_eof_drops :
    onNext (exec (.rxEof .bus0)
      (State.reset.setRx .bus0 { RxChan.reset with cur := 2#8, wsel := .buf1, flen := 2#8, full := true }))
      (fun t => (shown (t.rx .bus0), t.events)) = some ((0#8, .buf1, 2#8, true, false), [.rxDropped .bus0]) := by
  decide +kernel

/-- H18. -/
theorem test_sig_wait_mask :
    onNext (exec .sigWait (held .bus1 [0x10#8, 0x70#8] true)) (fun t => (t.result, (t.rx .bus1).sig, (t.rx .bus1).full))
      = some (.wait (.signalled 0b10#2), false, true) := by
  decide +kernel

/-- H16, the time-out taken. -/
theorem test_sig_wait_timeout :
    onNext (exec .sigWait (withTimeout true State.reset)) State.result = some (.wait .timeout) := by
  decide +kernel

/-- H6. -/
theorem test_rx_rd :
    onNext (exec (.rxRd .bus0 1#8) (held .bus0 [0x10#8, 0x70#8] false)) State.result = some (.byte 0x70#8) := by decide +kernel

/-- H7. -/
theorem test_rx_rd_index :
    refusalOf (exec (.rxRd .bus0 2#8) (held .bus0 [0x10#8, 0x70#8] false)) = some .rxIndex := by decide +kernel

/-- H8. -/
theorem test_rx_rel :
    onNext (exec (.rxRel .bus0) (held .bus0 [0x10#8, 0x70#8] false)) (fun t => shown (t.rx .bus0))
      = some (0#8, .buf1, 2#8, false, false) := by
  decide +kernel

/-- H4, for the release. -/
theorem test_rx_rel_not_owned :
    refusalOf (exec (.rxRel .bus0) (held .bus0 [0x10#8, 0x70#8] true)) = some .rxNotOwned := by decide +kernel

/-- H10. -/
theorem test_rx_take :
    onNext (exec (.rxTake .bus0) (held .bus0 [0x10#8, 0x70#8] false)) (fun t => (t.result, shown (t.rx .bus0)))
      = some (.taken [0x10#8, 0x70#8], (0#8, .buf1, 2#8, false, false)) := by
  decide +kernel

/-- H11. -/
theorem test_rx_take_not_owned : refusalOf (exec (.rxTake .bus0) State.reset) = some .rxNotOwned := by decide +kernel

/-- P1 step 4: the wait of the turn, and the service it leaves owed. -/
theorem test_dsp_step :
    onNext (exec .dspStep (held .bus1 [0x10#8, 0x70#8] true)) (fun t => (t.ctl, (t.rx .bus1).sig))
      = some (.serving [.bus1], false) := by
  decide +kernel

/-- D9. -/
theorem test_dsp_step_timeout :
    onNext (exec .dspStep (withTimeout true State.reset)) (fun t => (t.ctl, t.events))
      = some (.ready, [.log .noCommandReceived]) := by
  decide +kernel

/-- D1, on the bus that has the Register-Access codec here. -/
theorem test_dsp_svc_read :
    onNext (exec (.dspSvc .bus1) (withAnswers [.ok 0x12345678#32] [] (held .bus1 [0x10#8, 0x70#8] false)))
      (fun t => (t.events, t.calls, (t.rx .bus1).full))
      = some ([.send .bus1 [0x10#8, 0x12#8, 0x34#8, 0x56#8, 0x78#8, 0x2E#8]], [.read 0x10#8 (.ok 0x12345678#32)], false) := by
  decide +kernel

/-- D5. -/
theorem test_dsp_svc_write_error :
    onNext (exec (.dspSvc .bus1) (withAnswers [] [.writeError] (held .bus1 [0x20#8, 0#8, 0#8, 0#8, 1#8, 0x63#8] false)))
      (fun t => (t.events, t.calls))
      = some ([.log (.registerError .bus1 0x20#8 .writeError)], [.write 0x20#8 1#32 .writeError]) := by
  decide +kernel

/-- A4: a whole frame for another node. -/
theorem test_ap_data_foreign :
    onNext (exec (.apData .bus0 0x02#8 0x03#8 [0xAA#8] 0x7A11#16) State.reset) State.events
      = some [.log (.decodeFailure .bus0 .wrongAddress)] := by
  decide +kernel

/-- A13, the second frame. -/
theorem test_ap_data_ack :
    onNext (exec (.apDataAck .bus0 0x02#8 0x01#8 [0x00#8] 0x635F#16) State.reset) State.events
      = some [.packetReady .bus0 ⟨0x02#8, 0x01#8, 1#8, 2#8, [0x00#8], 0x635F#16⟩] := by
  decide +kernel

/-- E13 received by the node it is for. -/
theorem test_ap_cmd :
    onNext (exec (.apCmd .bus0 0x01#8 0x02#8 [0x55#8] 0x47AE#16) (withCfg { Params.default with nodeAddr := 2#8 } State.reset))
      State.events = some [.packetReady .bus0 ⟨0x01#8, 0x02#8, 1#8, 3#8, [0x55#8], 0x47AE#16⟩] := by
  decide +kernel

/-- E14 received by the node it is for. -/
theorem test_ap_cmd_ack :
    onNext (exec (.apCmdAck .bus0 0x01#8 0x02#8 [0x55#8] 0x0AA6#16)
      (withCfg { Params.default with nodeAddr := 2#8 } State.reset))
      State.events = some [.packetReady .bus0 ⟨0x01#8, 0x02#8, 1#8, 4#8, [0x55#8], 0x0AA6#16⟩] := by
  decide +kernel

/-- D10, on the bus that has the Addressed-Packet codec here. -/
theorem test_ap_ack :
    onNext (exec (.apAck .bus0 0x02#8 0x01#8 [] 0x3407#16) State.reset) State.events
      = some [.packetReady .bus0 ⟨0x02#8, 0x01#8, 0#8, 5#8, [], 0x3407#16⟩] := by
  decide +kernel

/-- A12. -/
theorem test_ap_nack :
    onNext (exec (.apNack .bus0 0x7E#8 0x01#8 [] 0xCBED#16) State.reset) State.events
      = some [.packetReady .bus0 ⟨0x7E#8, 0x01#8, 0#8, 6#8, [], 0xCBED#16⟩] := by
  decide +kernel

/-- D2. -/
theorem test_ra_read_not_found :
    onNext (exec (.raRead .bus1 0x11#8 0x77#8) (withAnswers [.notFound] [] State.reset)) State.events
      = some [.log (.registerError .bus1 0x11#8 .notFound)] := by
  decide +kernel

/-- D4. -/
theorem test_ra_write_answered :
    onNext (exec (.raWrite .bus1 0x10#8 0xDEADBEEF#32 0xF8#8)
      (withAnswers [] [.ok] (withCfg { Params.default with writeAck1 := true } State.reset))) State.events
      = some [.send .bus1 [0x10#8, 0xDE#8, 0xAD#8, 0xBE#8, 0xEF#8, 0xF8#8]] := by
  decide +kernel

/-- D6. -/
theorem test_ra_write_bad_crc :
    onNext (exec (.raWrite .bus1 0x10#8 0xDEADBEEF#32 0xF9#8) State.reset) (fun t => (t.events, t.calls))
      = some ([.log (.decodeFailure .bus1 (.frameError .badCrc))], []) := by
  decide +kernel

/-- B23, sent. -/
theorem test_ra_resp :
    onNext (exec (.raResp .bus1 0x00#8 7#32) State.reset) State.events
      = some [.send .bus1 [0x00#8, 0x00#8, 0x00#8, 0x00#8, 0x07#8, 0x15#8]] := by
  decide +kernel

/-! ## Witnesses: for each statement that has hypotheses, values that meet them, at the ends of their ranges -/

/-- Reset, with the consumer about to move. -/
def turn (c : Ctl) (s : State) : State := { s with sched := [.agent .consumer], ctl := c }

/-- A payload of the greatest length. -/
def longest : List U8 := List.replicate 248 0xA5#8

/-- Reset in the other address mode, with the decoder of bus 0 at a position. -/
def immediateAt (pos : U8) : State :=
  withCfg { Params.default with wrongAddrMode := .immediate } (apAt pos 0#8 0#8 0#16 [])

/-- Reset, with both signals set and the order of the services given. -/
def bothSignalled : State :=
  { (held .bus0 [0x10#8] true).setRx .bus1 ((held .bus1 [0x10#8] true).rx .bus1) with env := ⟨[], [], [], [false], 0⟩ }

theorem above_cellsFrom (l : List U8) (i lo : Nat) (h : lo < i) : Memory.above lo (cellsFrom i l) = true := by
  induction l generalizing i lo with
  | nil => rfl
  | cons v l ih => simp [cellsFrom, Memory.above, h, ih (i + 1) i (by omega)]

theorem read_cellsFrom (l : List U8) (i j : Nat) : (cellsFrom i l).read (i + j) = l[j]? := by
  induction l generalizing i j with
  | nil => simp [cellsFrom, Memory.read]
  | cons v l ih =>
    cases j with
    | zero => simp [cellsFrom, Memory.read]
    | succ j => rw [show i + (j + 1) = i + 1 + j by omega]; simp [cellsFrom, Memory.read, ih]; omega

theorem good_cellsFrom (l : List U8) (n : Nat) (h : l.length ≤ n) : (cellsFrom 0 l).Good n := by
  have hi : ∀ (l : List U8) (i : Nat), i + l.length ≤ n → (cellsFrom i l).inside n = true := by
    intro l
    induction l with
    | nil => intro i _; rfl
    | cons v l ih =>
      intro i hl
      simp only [List.length_cons] at hl
      have := ih (i + 1) (by omega)
      simp only [Memory.inside] at this
      simp [cellsFrom, Memory.inside, this]; omega
  refine ⟨?_, hi l 0 (by omega)⟩
  cases l with
  | nil => rfl
  | cons v l => exact above_cellsFrom l 1 0 (by omega)

/-- Bytes placed from index 0 are a frame or a payload held. -/
theorem read_cells (l : List U8) (j : Nat) : (cellsFrom 0 l).read j = l[j]? := by
  have := read_cellsFrom l 0 j; rwa [Nat.zero_add] at this

theorem holdsFrame_held (b : Bus) (frame : List U8) (sig : Bool) (h : frame.length ≤ 255) :
    (held b frame sig).HoldsFrame b frame := by
  refine ⟨?_, ?_, fun i _ => ?_⟩
  · cases b <;> simp [held, State.setRx, State.rx] <;> omega
  · cases b <;> exact h
  · cases b <;> exact read_cells frame i

theorem holdsPayload_apAt (pos len typ : U8) (c : U16) (payload : List U8) (hl : len.toNat = payload.length)
    (h : payload.length ≤ 248) : (apAt pos len typ c payload).HoldsPayload .bus0 payload :=
  ⟨hl, h, fun i _ => read_cells payload i⟩

/-- A decoder at its last byte, its payload read, is sound. -/
theorem sound_apAt (pos len typ : U8) (c : U16) (payload : List U8) (p : Params) (hp : pos.toNat = 6 + payload.length)
    (hl : len.toNat = payload.length) (h : payload.length ≤ 248) : ((apAt pos len typ c payload).ap .bus0).Sound p := by
  refine ⟨good_cellsFrom payload 248 h, .inr ⟨?_, ?_⟩, fun i hi => ?_, fun hb => ?_⟩
  · show len.toNat ≤ 248; omega
  · show pos.toNat ≤ 6 + len.toNat; omega
  · show ((cellsFrom 0 payload).read i).isSome = true
    have hi' : i < min (pos.toNat - 5) len.toNat := hi
    rw [read_cells, List.getElem?_eq_getElem (by omega)]; rfl
  · cases hb

theorem longest_length : longest.length = 248 := by decide +kernel

theorem sound_last (p : Params) : ((apAt 254#8 248#8 1#8 0#16 longest).ap .bus0).Sound p :=
  sound_apAt 254#8 248#8 1#8 0#16 longest p (by rw [longest_length]; rfl) (by rw [longest_length]; rfl)
    (by rw [longest_length])

theorem witness_DecodeOfEncodeGivesTheInstruction :
    WellFormed (.apData .bus0 0xFF#8 0x00#8 longest 0xFFFF#16) = true ∧ WellFormed (.apNack .bus1 0#8 0#8 [] 0#16) = true ∧
    WellFormed (.raDec (List.replicate 255 0#8)) = true := by decide +kernel

theorem witness_EncodeOfDecodeGivesTheRequest :
    decode ⟨.frameIn .bus1, [0x10#8, 0x70#8]⟩ = .ok (.raRead .bus1 0x10#8 0x70#8) := rfl

theorem witness_ReservedTypesAreExplicit :
    (0#8 : U8).toNat < 1 ∧ 6 < (7#8 : U8).toNat ∧ 6 < (255#8 : U8).toNat ∧ longest.length ≤ 248 := by decide +kernel

theorem witness_StepRunsTheDecodedInstruction :
    ((placeRequest .consumer ⟨.op, [0b100001#8, 1#8]⟩ State.reset).sched = .agent .consumer :: [] ∧
      (placeRequest .consumer ⟨.op, [0b100001#8, 1#8]⟩ State.reset).queue .consumer = ⟨.op, [0b100001#8, 1#8]⟩ :: [] ∧
      (placeRequest .consumer ⟨.op, [0b100001#8, 1#8]⟩ State.reset).ctl = .ready ∧
      decode ⟨.op, [0b100001#8, 1#8]⟩ = .ok (.dspSvc .bus1) ∧ WellFormed (.dspSvc .bus1) = true ∧
      mayIssue .consumer (.dspSvc .bus1) = true) ∧
    ((placeRequest (.producer .bus1) ⟨.op, [0b011001#8, 1#8]⟩ State.reset).sched = .agent (.producer .bus1) :: [] ∧
      (placeRequest (.producer .bus1) ⟨.op, [0b011001#8, 1#8]⟩ State.reset).queue (.producer .bus1)
        = ⟨.op, [0b011001#8, 1#8]⟩ :: [] ∧
      decode ⟨.op, [0b011001#8, 1#8]⟩ = .ok (.rxEof .bus1) ∧ WellFormed (.rxEof .bus1) = true ∧
      mayIssue (.producer .bus1) (.rxEof .bus1) = true) :=
  ⟨⟨rfl, rfl, rfl, rfl, rfl, rfl⟩, rfl, rfl, rfl, rfl, rfl⟩

theorem witness_MovesWithoutARequest :
    (turn .waiting State.reset).sched = .agent .consumer :: [] ∧ (turn .waiting State.reset).ctl = .waiting ∧
    (turn .stepping State.reset).ctl = .stepping ∧ (turn (.serving [.bus1]) State.reset).ctl = .serving [.bus1] ∧
    (turn (.serving [.bus1, .bus0]) State.reset).ctl = .serving (.bus1 :: .bus0 :: []) ∧
    ((turn .ready State.reset).ctl = .ready ∧ (turn .ready State.reset).queueC = []) ∧ State.reset.sched = [] ∧
    ((State.reset.withSched [.agent (.producer .bus0)]).sched = .agent (.producer .bus0) :: [] ∧
      (State.reset.withSched [.agent (.producer .bus0)]).queue (.producer .bus0) = []) :=
  ⟨rfl, rfl, rfl, rfl, rfl, ⟨rfl, rfl⟩, rfl, rfl, rfl⟩

theorem witness_PlacedWordIsTheNextStep :
    decodeTableWord 8 0b011000 = some (.rxByte .bus0 0#8) ∧ decodeTableWord 8 0b100000 = some .dspStep := by decide +kernel

theorem witness_WrongContextIsRefused :
    (placeRequest (.producer .bus0) ⟨.op, [0b011010#8]⟩ State.reset).sched = .agent (.producer .bus0) :: [] ∧
    (placeRequest (.producer .bus0) ⟨.op, [0b011010#8]⟩ State.reset).queue (.producer .bus0) = ⟨.op, [0b011010#8]⟩ :: [] ∧
    decode ⟨.op, [0b011010#8]⟩ = .ok .sigWait ∧ mayIssue (.producer .bus0) .sigWait = false ∧
    ((placeRequest .consumer ⟨.op, [0b011001#8, 0#8]⟩ State.reset).ctl = .ready ∧
      decode ⟨.op, [0b011001#8, 0#8]⟩ = .ok (.rxEof .bus0) ∧ mayIssue .consumer (.rxEof .bus0) = false) :=
  ⟨rfl, rfl, rfl, rfl, rfl, rfl, rfl⟩

theorem witness_ResetMoveResetsTheWholeBlock :
    ((held .bus0 [0x10#8] true).withSched [.reset]).sched = .reset :: [] := rfl

theorem witness_InvariantHoldsAtReset :
    Params.default.rxCap ≠ 0#8 ∧ ({ Params.default with rxCap := 1#8 } : Params).rxCap ≠ 0#8 := by decide

theorem witness_EveryStepKeepsTheInvariant :
    (turn .ready (held .bus1 [0x10#8, 0x70#8] true)).Inv ∧
    ∃ t, step (turn .ready (held .bus1 [0x10#8, 0x70#8] true)) = .next t := ⟨by decide +kernel, _, rfl⟩

theorem witness_NoStepFaultsUnderTheInvariant : (apAt 254#8 248#8 1#8 0#16 longest).Inv :=
  ⟨by decide, sound_last _, by decide +kernel, by decide +kernel, by decide +kernel, by decide, by decide, by decide⟩

theorem witness_OwedServiceIsNeverRefused :
    (turn (.serving [.bus1]) (held .bus1 [0x10#8, 0x70#8] false)).Inv ∧
    (turn (.serving [.bus1]) (held .bus1 [0x10#8, 0x70#8] false)).sched = .agent .consumer :: [] ∧
    (turn (.serving [.bus1]) (held .bus1 [0x10#8, 0x70#8] false)).ctl = .serving (.bus1 :: []) :=
  ⟨by decide +kernel, rfl, rfl⟩

theorem witness_ParametersAreConstantAndRecordsGrow :
    (∃ t, exec (.rxEof .bus0) State.reset = .next t) ∧ ∃ t, step (State.reset.withSched [.reset]) = .next t :=
  ⟨⟨_, rfl⟩, _, rfl⟩

theorem witness_CrcsAreLinear : ([0x31#8, 0x32#8] : List U8).length = ([0x01#8, 0x80#8] : List U8).length := rfl

theorem witness_CrcOfOneNonzeroByteIsNotZero : (1#8 : U8) ≠ 0#8 ∧ (255#8 : U8) ≠ 0#8 := by decide

theorem witness_ApDecStartByte : codecOf State.reset.cfg .bus0 = .ap ∧ (State.reset.ap .bus0).pos = 0#8 := by decide

theorem witness_ApDecSourceAndTypeBytes :
    (codecOf (apAt 1#8 0#8 0#8 0#16 []).cfg .bus0 = .ap ∧ ((apAt 1#8 0#8 0#8 0#16 []).ap .bus0).pos = 1#8) ∧
    codecOf (apAt 4#8 248#8 0#8 0#16 []).cfg .bus0 = .ap ∧ ((apAt 4#8 248#8 0#8 0#16 []).ap .bus0).pos = 4#8 := by decide

theorem witness_ApDecDestinationByte :
    (codecOf (apAt 2#8 0#8 0#8 0#16 []).cfg .bus0 = .ap ∧ ((apAt 2#8 0#8 0#8 0#16 []).ap .bus0).pos = 2#8 ∧
      (apAt 2#8 0#8 0#8 0#16 []).cfg.wrongAddrMode = .consume) ∧
    codecOf (immediateAt 2#8).cfg .bus0 = .ap ∧ ((immediateAt 2#8).ap .bus0).pos = 2#8 ∧
      (immediateAt 2#8).cfg.wrongAddrMode = .immediate := by decide

theorem witness_ApDecLengthByte :
    codecOf (apAt 3#8 0#8 0#8 0#16 []).cfg .bus0 = .ap ∧ ((apAt 3#8 0#8 0#8 0#16 []).ap .bus0).pos = 3#8 := by decide

theorem witness_ApDecPayloadAndChecksumHighBytes :
    (5 ≤ ((apAt 5#8 1#8 1#8 0#16 []).ap .bus0).pos.toNat ∧
      ((apAt 5#8 1#8 1#8 0#16 []).ap .bus0).pos.toNat ≤ 4 + ((apAt 5#8 1#8 1#8 0#16 []).ap .bus0).len.toNat ∧
      ((apAt 5#8 1#8 1#8 0#16 []).ap .bus0).len.toNat ≤ 248) ∧
    (((apAt 252#8 248#8 1#8 0#16 []).ap .bus0).pos.toNat ≤ 4 + ((apAt 252#8 248#8 1#8 0#16 []).ap .bus0).len.toNat ∧
      ((apAt 252#8 248#8 1#8 0#16 []).ap .bus0).len.toNat ≤ 248) ∧
    ((apAt 5#8 0#8 1#8 0#16 []).ap .bus0).pos.toNat = 5 + ((apAt 5#8 0#8 1#8 0#16 []).ap .bus0).len.toNat ∧
    ((apAt 253#8 248#8 1#8 0#16 []).ap .bus0).pos.toNat = 5 + ((apAt 253#8 248#8 1#8 0#16 []).ap .bus0).len.toNat := by
  decide

theorem witness_ApDecChecksumLowByte :
    (((apAt 6#8 0#8 5#8 0x3400#16 []).ap .bus0).pos.toNat = 6 + ((apAt 6#8 0#8 5#8 0x3400#16 []).ap .bus0).len.toNat ∧
      (apAt 6#8 0#8 5#8 0x3400#16 []).HoldsPayload .bus0 []) ∧
    ((apAt 254#8 248#8 1#8 0#16 longest).ap .bus0).pos.toNat
      = 6 + ((apAt 254#8 248#8 1#8 0#16 longest).ap .bus0).len.toNat ∧
      (apAt 254#8 248#8 1#8 0#16 longest).HoldsPayload .bus0 longest :=
  ⟨by decide +kernel, by decide +kernel, holdsPayload_apAt 254#8 248#8 1#8 0#16 longest (by rw [longest_length]; rfl) (by rw [longest_length])⟩

theorem witness_ApDecBeyondTheEnd :
    6 + ((apAt 7#8 0#8 0#8 0#16 []).ap .bus0).len.toNat < ((apAt 7#8 0#8 0#8 0#16 []).ap .bus0).pos.toNat ∧
    6 + ((apAt 255#8 248#8 0#8 0#16 []).ap .bus0).len.toNat < ((apAt 255#8 248#8 0#8 0#16 []).ap .bus0).pos.toNat := by
  decide

theorem witness_ApDecCompletesOnSoundInstances :
    codecOf State.reset.cfg .bus0 = .ap ∧ (State.reset.ap .bus0).Sound State.reset.cfg ∧
    ((apAt 254#8 248#8 1#8 0#16 longest).ap .bus0).Sound Params.default :=
  ⟨by decide, by decide +kernel, sound_last _⟩

theorem witness_TerminalOutcomesResetTheCursor :
    ∃ t, exec (.apDec .bus0 0x55#8) State.reset = .next t ∧ t.result = .ap .invalid ∧ ApOutcome.invalid ≠ .notReady :=
  ⟨_, rfl, rfl, by decide⟩

theorem witness_ApDecTouchesItsInstanceOnly :
    (held .bus1 [0x10#8] true).cfg = State.reset.cfg ∧ (held .bus1 [0x10#8] true).ap .bus0 = State.reset.ap .bus0 ∧
    ∃ t, exec (.apDec .bus0 0x7E#8) State.reset = .next t := ⟨rfl, rfl, _, rfl⟩

theorem witness_ApRstResetsTheCursorOnly :
    codecOf State.reset.cfg .bus0 = .ap ∧ codecOf State.reset.cfg .bus1 ≠ .ap := by decide

theorem witness_WellFormedFrameGivesOneTerminalOutcome :
    codecOf State.reset.cfg .bus0 = .ap ∧ (State.reset.ap .bus0).pos = 0#8 ∧
    ([] : List U8).length ≤ 248 ∧ longest.length ≤ 248 ∧ State.reset.cfg.wrongAddrMode = .consume ∧
    ((immediateAt 0#8).cfg.wrongAddrMode ≠ .consume ∧
      0x01#8 = (immediateAt 0#8).cfg.nodeAddr) := by decide +kernel

theorem witness_EncodedPacketDecodesToItsFields :
    codecOf State.reset.cfg .bus0 = .ap ∧ (State.reset.ap .bus0).pos = 0#8 ∧
    (1 ≤ (1#8 : U8).toNat ∧ (1#8 : U8).toNat ≤ 6) ∧ (1 ≤ (6#8 : U8).toNat ∧ (6#8 : U8).toNat ≤ 6) ∧
    longest.length ≤ 248 := by decide +kernel

/-- E2, and A3 with one byte changed: the first, the second and the last byte that may be. -/
theorem witness_OneCorruptedByteIsInvalid :
    codecOf State.reset.cfg .bus0 = .ap ∧ (State.reset.ap .bus0).pos = 0#8 ∧
    apEncode State.reset.cfg 0x02#8 State.reset.cfg.nodeAddr 1#8 [0xDE#8, 0xAD#8]
      = .ok ([0x7E#8, 0x02#8, 0x01#8, 0x02#8, 0x01#8, 0xDE#8, 0xAD#8] ++
          [hiByte (frameCrc16 Params.default 0x02#8 0x01#8 1#8 [0xDE#8, 0xAD#8]),
            loByte (frameCrc16 Params.default 0x02#8 0x01#8 1#8 [0xDE#8, 0xAD#8])]) ∧
    ([0x7E#8, 0x02#8, 0x01#8, 0x02#8, 0x01#8, 0xDE#8, 0xAD#8] : List U8)[1]? ≠ some 0x03#8 ∧
    (([0x7E#8, 0x02#8, 0x01#8, 0x02#8, 0x01#8, 0xDE#8, 0xAD#8] : List U8)[2]? ≠ some 0x03#8 ∧
      State.reset.cfg.wrongAddrMode = .consume) ∧
    ([0x7E#8, 0x02#8, 0x01#8, 0x02#8, 0x01#8, 0xDE#8, 0xAD#8] : List U8)[6]? ≠ some 0xAC#8 ∧
    6 < 5 + ([0xDE#8, 0xAD#8] : List U8).length :=
  ⟨rfl, rfl, rfl, by decide, ⟨by decide, rfl⟩, by decide, by decide⟩

theorem witness_ApEncReturnsTheFrame :
    longest.length ≤ 248 ∧ 1 ≤ (1#8 : U8).toNat ∧ (6#8 : U8).toNat ≤ 6 ∧ 248 < (0#8 :: longest).length ∧
    (0#8 : U8).toNat < 1 ∧ 6 < (7#8 : U8).toNat := by decide +kernel

theorem witness_HelpersEncodeFromThisNode :
    longest.length ≤ 248 ∧ (1 ≤ (1#8 : U8).toNat ∧ (1#8 : U8).toNat ≤ 6) ∧ 1 ≤ (6#8 : U8).toNat ∧ (6#8 : U8).toNat ≤ 6 := by
  decide +kernel

theorem witness_RaDecClassifiesEveryFrame :
    (([] : List U8).length ≠ 2 ∧ ([] : List U8).length ≠ 6) ∧ (List.replicate 3 (0#8 : U8)).length ≠ 2 ∧
    (List.replicate 3 (0#8 : U8)).length ≠ 6 ∧ (List.replicate 7 (0#8 : U8)).length ≠ 6 := by decide

theorem witness_RxByteStoresAtTheCursor :
    State.reset.cfg.rxCap ≠ 0#8 ∧ (State.reset.rx .bus0).cur.toNat ≤ State.reset.cfg.rxCap.toNat ∧
    ((State.reset.setRx .bus0 { RxChan.reset with cur := 255#8 }).rx .bus0).cur.toNat ≤ State.reset.cfg.rxCap.toNat ∧
    (withCfg { Params.default with rxCap := 0#8 } State.reset).cfg.rxCap = 0#8 := by decide

theorem witness_ReceiveCursorWrapsAtCapacity :
    (withCfg { Params.default with rxCap := 1#8 } State.reset).cfg.rxCap ≠ 0#8 ∧
    ((withCfg { Params.default with rxCap := 1#8 } State.reset).rx .bus0).cur = 0#8 := by decide

theorem witness_RxEofHandsOffOrDrops :
    (State.reset.rx .bus0).full = false ∧ ((held .bus0 [0x10#8] true).rx .bus0).full = true := by decide

theorem witness_SigWaitReturnsTheBitsOrWaits :
    (held .bus1 [0x10#8] true).rx1.sig = true ∧ (State.reset.rx0.sig = false ∧ State.reset.rx1.sig = false) ∧
    (withTimeout true State.reset).env.timeouts = true :: [] ∧
    (withTimeout false State.reset).env.timeouts = false :: [] := ⟨rfl, ⟨rfl, rfl⟩, rfl, rfl⟩

theorem witness_RxRdReadsTheLatchedByte :
    (((held .bus0 (0x7E#8 :: longest) false).rx .bus0).full = true ∧
      ((held .bus0 (0x7E#8 :: longest) false).rx .bus0).sig = false ∧
      (held .bus0 (0x7E#8 :: longest) false).HoldsFrame .bus0 (0x7E#8 :: longest) ∧
      (0x7E#8 :: longest)[(0#8 : U8).toNat]? = some 0x7E#8 ∧ (0x7E#8 :: longest)[(248#8 : U8).toNat]? = some 0xA5#8) ∧
    (State.reset.rx .bus0).full = false ∧ ((held .bus0 [0x10#8] true).rx .bus0).sig = true ∧
    ((held .bus0 [0x10#8] false).rx .bus0).flen.toNat ≤ (1#8 : U8).toNat :=
  ⟨⟨by decide +kernel, by decide +kernel, holdsFrame_held .bus0 _ false (by decide +kernel), by decide +kernel,
    by decide +kernel⟩, by decide, by decide, by decide⟩

theorem witness_RxRelReleasesTheBuffer :
    (((held .bus0 [0x10#8] false).rx .bus0).full = true ∧ ((held .bus0 [0x10#8] false).rx .bus0).sig = false) ∧
    (State.reset.rx .bus0).full = false ∧ ((held .bus0 [0x10#8] true).rx .bus0).sig = true := by decide

theorem witness_RxTakeCopiesAndReleases :
    ((held .bus0 (0x7E#8 :: longest) false).rx .bus0).full = true ∧
    ((held .bus0 (0x7E#8 :: longest) false).rx .bus0).sig = false ∧
    (held .bus0 (0x7E#8 :: longest) false).HoldsFrame .bus0 (0x7E#8 :: longest) ∧ (held .bus0 [] false).HoldsFrame .bus0 [] ∧
    (0x7E#8 :: longest)[(248#8 : U8).toNat]? = some 0xA5#8 ∧
    (State.reset.rx .bus0).full = false ∧ ((held .bus0 [0x10#8] true).rx .bus0).sig = true :=
  ⟨by decide +kernel, by decide +kernel, holdsFrame_held .bus0 _ false (by decide +kernel),
    holdsFrame_held .bus0 _ false (by decide), by decide +kernel, by decide, by decide⟩

theorem witness_TakenFrameIsWhatWasReceived :
    State.reset.Inv ∧ (State.reset.rx .bus1).cur = 0#8 ∧ (State.reset.rx .bus1).full = false ∧
    (List.replicate 255 (0x10#8 : U8)).length ≤ State.reset.cfg.rxCap.toNat ∧
    ∀ i ∈ [Instr.rxByte .bus1 0x20#8, .rxEof .bus1, .rxByte .bus0 0x30#8], isProducerOp i = true :=
  ⟨by decide +kernel, by decide, by decide, by decide +kernel, by decide +kernel⟩

theorem witness_StaleBytesAreNotObservable :
    (∀ i, i < ((held .bus0 [0x10#8, 0x70#8] false).rx .bus0).flen.toNat →
      Memory.read [(0, 0x10#8), (1, 0x70#8), (2, 0xFF#8)] i = ((held .bus0 [0x10#8, 0x70#8] false).rx .bus0).latched.read i) ∧
    ∃ t, exec (.rxTake .bus0) (held .bus0 [0x10#8, 0x70#8] false) = .next t := ⟨by decide +kernel, _, rfl⟩

theorem witness_ProducersOfTheTwoBusesCommute :
    (held .bus0 [0x10#8] true).Inv ∧ Instr.rxEof .bus0 ∈ [Instr.rxByte .bus0 0x20#8, .rxEof .bus0] ∧
    Instr.rxByte .bus1 0x30#8 ∈ [Instr.rxByte .bus1 0x30#8, .rxEof .bus1] :=
  ⟨by decide +kernel, by decide +kernel, by decide +kernel⟩

theorem witness_DspStepOwesServicesOrWarns :
    (bothSignalled.rx0.sig = true ∧ bothSignalled.rx1.sig = true ∧ bothSignalled.env.orders = false :: []) ∧
    (State.reset.rx0.sig = false ∧ State.reset.rx1.sig = false) ∧
    (withTimeout true State.reset).env.timeouts = true :: [] ∧
    (withTimeout false State.reset).env.timeouts = false :: [] := ⟨⟨rfl, rfl, rfl⟩, ⟨rfl, rfl⟩, rfl, rfl⟩

theorem witness_DspSvcAnswersAReadRequest :
    codecOf State.reset.cfg .bus1 = .ra ∧ ((held .bus1 [0x10#8, 0x70#8] false).rx .bus1).full = true ∧
    ((held .bus1 [0x10#8, 0x70#8] false).rx .bus1).sig = false ∧
    (held .bus1 [0x10#8, 0x70#8] false).HoldsFrame .bus1 [0x10#8, crc8 0#8 [0x10#8]] ∧
    (withAnswers [.notFound] [] State.reset).env.reads = .notFound :: [] := by decide +kernel

theorem witness_DspSvcServesAWriteRequest :
    codecOf State.reset.cfg .bus1 = .ra ∧
    ((held .bus1 [0x10#8, 0xDE#8, 0xAD#8, 0xBE#8, 0xEF#8, 0xF8#8] false).rx .bus1).full = true ∧
    ((held .bus1 [0x10#8, 0xDE#8, 0xAD#8, 0xBE#8, 0xEF#8, 0xF8#8] false).rx .bus1).sig = false ∧
    (held .bus1 [0x10#8, 0xDE#8, 0xAD#8, 0xBE#8, 0xEF#8, 0xF8#8] false).HoldsFrame .bus1 (raEncode 0x10#8 0xDEADBEEF#32) ∧
    (withAnswers [] [.ok] State.reset).env.writes = .ok :: [] := by decide +kernel

theorem witness_DspSvcDropsAFrameThatDoesNotDecode :
    codecOf State.reset.cfg .bus1 = .ra ∧ ((held .bus1 [] false).rx .bus1).full = true ∧
    ((held .bus1 [] false).rx .bus1).sig = false ∧ (held .bus1 [] false).HoldsFrame .bus1 [] ∧
    raDecode [] = .frameError .badLength ∧ (held .bus1 [0x10#8, 0x71#8] false).HoldsFrame .bus1 [0x10#8, 0x71#8] ∧
    raDecode [0x10#8, 0x71#8] = .frameError .badCrc ∧
    -- the second clause: a stray byte, then a START byte
    (codecOf State.reset.cfg .bus0 = .ap ∧ ((held .bus0 [0x00#8, 0x7E#8] false).rx .bus0).full = true ∧
      ((held .bus0 [0x00#8, 0x7E#8] false).rx .bus0).sig = false ∧
      (held .bus0 [0x00#8, 0x7E#8] false).HoldsFrame .bus0 [0x00#8, 0x7E#8] ∧
      ((held .bus0 [0x00#8, 0x7E#8] false).ap .bus0).Sound (held .bus0 [0x00#8, 0x7E#8] false).cfg ∧
      (feedAp .bus0 [0x00#8, 0x7E#8] (held .bus0 [0x00#8, 0x7E#8] false)).map Prod.fst = some [.invalid, .notReady]) := by
  decide +kernel

/-- The packet of vector D10. -/
def ackPacket : Packet := ⟨0x02#8, 0x01#8, 0#8, 5#8, [], 0x3407#16⟩

/-- Parameters that map the packet of D10 to a register operation, and its failure to a response. -/
def mapped (op : RegOp) : Params :=
  { Params.default with
    apRegop := [(ackPacket, op)]
    apResp := [((ackPacket, .read .notFound), [0xAA#8]), ((ackPacket, .write .writeError), [0xBB#8])] }

/-- The frame of D10, handed off on bus 0. -/
def heldAck (p : Params) : State :=
  withCfg p (held .bus0 [0x7E#8, 0x02#8, 0x01#8, 0x00#8, 0x05#8, 0x34#8, 0x07#8] false)

theorem witness_DspSvcReportsAPacket :
    ([] : List U8).length ≤ 248 ∧
    ackPacket = ⟨0x02#8, Params.default.nodeAddr, BitVec.ofNat 8 ([] : List U8).length, 5#8, [],
      frameCrc16 Params.default 0x02#8 Params.default.nodeAddr 5#8 []⟩ ∧
    (∀ p ∈ [Params.default, mapped (.read 0x10#8), mapped (.write 0x10#8 7#32)],
      codecOf (heldAck p).cfg .bus0 = .ap ∧ ((heldAck p).ap .bus0).pos = 0#8 ∧
      ((heldAck p).rx .bus0).full = true ∧ ((heldAck p).rx .bus0).sig = false ∧
      (heldAck p).HoldsFrame .bus0 ([0x7E#8, 0x02#8, (heldAck p).cfg.nodeAddr, 0x00#8, 0x05#8] ++ [] ++
        [hiByte ackPacket.crc, loByte ackPacket.crc])) ∧
    Params.default.apRegop.lookup ackPacket = none ∧
    (mapped (.read 0x10#8)).apRegop.lookup ackPacket = some (.read 0x10#8) ∧
    (mapped (.write 0x10#8 7#32)).apRegop.lookup ackPacket = some (.write 0x10#8 7#32) ∧
    (withAnswers [.notFound] [.writeError] (heldAck Params.default)).env.reads = .notFound :: [] ∧
    (withAnswers [.notFound] [.writeError] (heldAck Params.default)).env.writes = .writeError :: [] := by decide +kernel

/-- R226 with a mapped packet: the report, the log of the failed read, and the response to it. -/
theorem test_dsp_svc_mapped_packet :
    onNext (exec (.dspSvc .bus0) (withAnswers [.notFound] [] (heldAck (mapped (.read 0x10#8))))) State.events
      = some [.packetReady .bus0 ackPacket, .log (.registerError .bus0 0x10#8 .notFound), .send .bus0 [0xAA#8]] := by
  decide +kernel

/-- The frames of D11, two packets with a stray byte between, and of D12, the beginning of a packet. -/
theorem witness_DspSvcActsOnEveryOutcome :
    ∀ frame ∈ [[], [0x7E#8, 0x02#8, 0x01#8, 0x04#8, 0x01#8, 0xDE#8],
        [0x7E#8, 0x02#8, 0x01#8, 0x00#8, 0x05#8, 0x34#8, 0x07#8, 0x00#8,
          0x7E#8, 0x02#8, 0x03#8, 0x01#8, 0x01#8, 0xAA#8, 0x7A#8, 0x11#8]],
      codecOf (held .bus0 frame false).cfg .bus0 = .ap ∧ ((held .bus0 frame false).rx .bus0).full = true ∧
      ((held .bus0 frame false).rx .bus0).sig = false ∧ (held .bus0 frame false).HoldsFrame .bus0 frame ∧
      ((held .bus0 frame false).ap .bus0).Sound (held .bus0 frame false).cfg := by decide +kernel

theorem witness_DspSvcLeavesTheOtherBusAlone :
    onNext (exec (.dspSvc .bus0) (held .bus0 [0x7E#8] false)) State.ctl = some .ready := by decide +kernel

theorem witness_ApFrameRowsReportTheirPacket :
    codecOf State.reset.cfg .bus0 = .ap ∧ (State.reset.ap .bus0).pos = 0#8 ∧ ([] : List U8).length ≤ 248 ∧
    (Instr.apAck .bus0 0x02#8 State.reset.cfg.nodeAddr [] 0x3407#16, (5#8 : U8), PacketType.ack)
      ∈ apRows .bus0 0x02#8 State.reset.cfg.nodeAddr [] 0x3407#16 ∧
    0x3407#16 = frameCrc16 State.reset.cfg 0x02#8 State.reset.cfg.nodeAddr 5#8 [] ∧
    State.reset.cfg.apRegop.lookup ackPacket = none ∧
    ((apAt 254#8 248#8 1#8 0#16 longest).ap .bus0).Sound (apAt 254#8 248#8 1#8 0#16 longest).cfg :=
  ⟨rfl, rfl, by decide, by decide +kernel, by decide +kernel, rfl, sound_last _⟩

theorem witness_RaFrameRowsAreServed :
    codecOf State.reset.cfg .bus1 = .ra ∧ 0x71#8 ≠ crc8 0#8 [0x10#8] ∧ 0x70#8 = crc8 0#8 [0x10#8] ∧
    raWriteBytes 0x10#8 0xDEADBEEF#32 0xF9#8 ≠ raEncode 0x10#8 0xDEADBEEF#32 ∧
    raWriteBytes 0x10#8 0xDEADBEEF#32 0xF8#8 = raEncode 0x10#8 0xDEADBEEF#32 := by decide +kernel

theorem witness_FrameRowsCompleteOnEitherCodec :
    (State.reset.ap .bus1).Sound State.reset.cfg ∧
    ((apAt 254#8 248#8 1#8 0#16 longest).ap .bus0).Sound (apAt 254#8 248#8 1#8 0#16 longest).cfg ∧
    Instr.raRead .bus1 0#8 0#8
      ∈ (apRows .bus1 0#8 0#8 [] 0#16).map Prod.fst ++ [.raRead .bus1 0#8 0#8, .raWrite .bus1 0#8 0#32 0#8] :=
  ⟨by decide +kernel, sound_last _, by decide +kernel⟩

end Sys2Proof.Machine.Tests
end

/-! ## O15: the parameters are constant and the records grow -/

namespace Sys2Proof.Machine

/-- `t` has the parameters of `s`, and its records begin with those of `s` (00_scope.md R8, 60_exceptions.md R251). -/
structure State.ExtendedBy (s t : State) : Prop where
  cfg : t.cfg = s.cfg
  events : s.events <+: t.events
  calls : s.calls <+: t.calls

namespace State.ExtendedBy

/-! ### The relation and the state updates -/

theorem of_append {s t : State} {es : List Event} {cs : List RegCall} (hcfg : t.cfg = s.cfg)
    (hevents : t.events = s.events ++ es) (hcalls : t.calls = s.calls ++ cs) : s.ExtendedBy t :=
  ⟨hcfg, hevents ▸ List.prefix_append _ _, hcalls ▸ List.prefix_append _ _⟩

theorem of_eq {s t : State} (hcfg : t.cfg = s.cfg) (hevents : t.events = s.events) (hcalls : t.calls = s.calls) :
    s.ExtendedBy t :=
  .of_append (es := []) (cs := []) hcfg (by simp [hevents]) (by simp [hcalls])

theorem refl (s : State) : s.ExtendedBy s := .of_eq rfl rfl rfl

theorem trans {s t u : State} (h : s.ExtendedBy t) (h' : t.ExtendedBy u) : s.ExtendedBy u :=
  ⟨h'.cfg.trans h.cfg, h.events.trans h'.events, h.calls.trans h'.calls⟩

theorem finish {s t : State} (h : s.ExtendedBy t) (r : Result) : s.ExtendedBy (t.finish r) :=
  h.trans (.of_eq rfl rfl rfl)

theorem emit {s t : State} (h : s.ExtendedBy t) (e : Event) : s.ExtendedBy (t.emit e) :=
  h.trans (.of_append (es := [e]) (cs := []) rfl rfl (by simp))

theorem withCtl {s t : State} (h : s.ExtendedBy t) (c : Ctl) : s.ExtendedBy (t.withCtl c) :=
  h.trans (.of_eq rfl rfl rfl)

theorem withSched {s t : State} (h : s.ExtendedBy t) (ms : List Move) : s.ExtendedBy (t.withSched ms) :=
  h.trans (.of_eq rfl rfl rfl)

theorem setQueue {s t : State} (h : s.ExtendedBy t) (a : Agent) (q : List Request) : s.ExtendedBy (t.setQueue a q) :=
  h.trans (.of_eq (by simp) (by simp) (by simp))

theorem setAp {s t : State} (h : s.ExtendedBy t) (b : Bus) (d : ApDec) : s.ExtendedBy (t.setAp b d) :=
  h.trans (.of_eq (by simp) (by simp) (by simp))

theorem setRx {s t : State} (h : s.ExtendedBy t) (b : Bus) (c : RxChan) : s.ExtendedBy (t.setRx b c) :=
  h.trans (.of_eq (by simp) (by simp) (by simp))

end State.ExtendedBy

/-! ### The shared operations -/

theorem apDecodeByte_extendedBy {b : Bus} {byte : U8} {s t : State} {o : ApOutcome}
    (h : apDecodeByte b byte s = .ok (o, t)) : s.ExtendedBy t := by
  rw [(apDecodeByte_ok b byte s t o h).1]
  exact (State.ExtendedBy.refl s).setAp b _

theorem receiveByte_extendedBy {b : Bus} {v : U8} {s t : State} (h : receiveByte b v s = .ok t) : s.ExtendedBy t := by
  obtain ⟨-, -, rfl⟩ := (receiveByte_ok_iff b v s t).mp h
  exact (State.ExtendedBy.refl s).setRx b _

theorem endOfFrame_extendedBy (b : Bus) (s : State) : s.ExtendedBy (endOfFrame b s) := by
  cases hfull : (s.rx b).full with
  | false => rw [endOfFrame_free b s hfull]; exact ((State.ExtendedBy.refl s).setRx b _).emit _
  | true => rw [endOfFrame_full b s hfull]; exact ((State.ExtendedBy.refl s).setRx b _).emit _

theorem waitSignal_extendedBy {s t : State} {o : Option WaitOutcome} (h : s.waitSignal = (o, t)) : s.ExtendedBy t := by
  by_cases hsig : s.rx0.sig = true ∨ s.rx1.sig = true
  · rw [waitSignal_of_signal s hsig] at h
    cases h
    exact .of_eq rfl rfl rfl
  · simp only [not_or, Bool.not_eq_true] at hsig
    obtain ⟨_, _, hwait, -⟩ := waitSignal_of_none s hsig.1 hsig.2
    rw [hwait] at h
    cases h
    exact .of_eq rfl rfl rfl

theorem takeFrame_extendedBy {b : Bus} {s t : State} {frame : List U8} (h : takeFrame b s = .ok (frame, t)) :
    s.ExtendedBy t := by
  obtain ⟨-, rfl, -⟩ := takeFrame_ok b s t frame h
  exact (State.ExtendedBy.refl s).setRx b _

theorem serveFrame_extendedBy {b : Bus} {frame : List U8} {s t : State} (h : serveFrame b frame s = .ok t) :
    s.ExtendedBy t := by
  obtain ⟨d, e, cs, es, rfl, -⟩ := serveFrame_ok b frame s t h
  exact .of_append (setAp_cfg s b d) rfl rfl

theorem oweServices_extendedBy (s : State) (m : BitVec 2) : s.ExtendedBy (s.oweServices m) := by
  obtain ⟨_, _, howed, -⟩ := oweServices_spec s m
  rw [howed]
  exact .of_eq rfl rfl rfl

/-! ### The meanings -/

theorem returnFrame_extendedBy {frame : Except Refusal (List U8)} {s t : State} (h : returnFrame frame s = .next t) :
    s.ExtendedBy t := by
  obtain ⟨bytes, -, rfl⟩ := (returnFrame_next_iff frame s t).mp h
  exact (State.ExtendedBy.refl s).finish _

theorem execApDec_extendedBy {b : Bus} {byte : U8} {s t : State} (h : execApDec b byte s = .next t) :
    s.ExtendedBy t := by
  unfold execApDec at h
  split at h
  · rw [toAnswer_next_iff] at h
    split at h
    · cases h
    · next hbyte => cases h; exact (apDecodeByte_extendedBy hbyte).finish _
  · cases h

theorem execApRst_extendedBy {b : Bus} {s t : State} (h : execApRst b s = .next t) : s.ExtendedBy t := by
  unfold execApRst at h
  split at h
  · cases h; exact ((State.ExtendedBy.refl s).setAp b _).finish _
  · cases h

theorem execRxByte_extendedBy {b : Bus} {v : U8} {s t : State} (h : execRxByte b v s = .next t) : s.ExtendedBy t := by
  rw [execRxByte, toAnswer_next_iff] at h
  split at h
  · cases h
  · next hbyte => cases h; exact (receiveByte_extendedBy hbyte).finish _

theorem execRxEof_extendedBy {b : Bus} {s t : State} (h : execRxEof b s = .next t) : s.ExtendedBy t := by
  cases h
  exact (endOfFrame_extendedBy b s).finish _

theorem execSigWait_extendedBy {s t : State} (h : execSigWait s = .next t) : s.ExtendedBy t := by
  cases h
  split
  · next hwait => exact ((waitSignal_extendedBy hwait).withCtl _).finish _
  · next hwait => exact ((waitSignal_extendedBy hwait).withCtl _).finish _

theorem execRxRd_extendedBy {b : Bus} {i : U8} {s t : State} (h : execRxRd b i s = .next t) : s.ExtendedBy t := by
  rw [execRxRd, toAnswer_next_iff] at h
  split at h
  · cases h
  · cases h; exact (State.ExtendedBy.refl s).finish _

theorem execRxRel_extendedBy {b : Bus} {s t : State} (h : execRxRel b s = .next t) : s.ExtendedBy t := by
  unfold execRxRel at h
  split at h
  · cases h; exact ((State.ExtendedBy.refl s).setRx b _).finish _
  · cases h

theorem execRxTake_extendedBy {b : Bus} {s t : State} (h : execRxTake b s = .next t) : s.ExtendedBy t := by
  rw [execRxTake, toAnswer_next_iff] at h
  split at h
  · cases h
  · next htake => cases h; exact (takeFrame_extendedBy htake).finish _

theorem execDspStep_extendedBy {s t : State} (h : execDspStep s = .next t) : s.ExtendedBy t := by
  cases h
  split
  · next hwait => exact (((waitSignal_extendedBy hwait).withCtl _).emit _).finish _
  · next hwait => exact ((waitSignal_extendedBy hwait).trans (oweServices_extendedBy _ _)).finish _
  · next hwait => exact ((waitSignal_extendedBy hwait).withCtl _).finish _

theorem execDspSvc_extendedBy {b : Bus} {s t : State} (h : execDspSvc b s = .next t) : s.ExtendedBy t := by
  rw [execDspSvc, toAnswer_next_iff] at h
  split at h
  · cases h
  · next htake =>
    split at h
    · cases h
    · next hserve =>
      cases h
      exact ((takeFrame_extendedBy htake).trans (serveFrame_extendedBy hserve)).finish _

theorem serveWire_extendedBy {b : Bus} {bytes : List U8} {s t : State} (h : serveWire b bytes s = .next t) :
    s.ExtendedBy t := by
  rw [serveWire, toAnswer_next_iff] at h
  split at h
  · cases h
  · next hserve => cases h; exact (serveFrame_extendedBy hserve).finish _

/-- One operation, by the family of its meaning: an outcome alone, an encoder's frame, a decoder's byte, the receiver, the
sequencer, a frame row. -/
theorem exec_extendedBy {i : Instr} {s t : State} (h : exec i s = .next t) : s.ExtendedBy t := by
  cases i with
  | crc16 | crc8 | raDec | raEnc => cases h; exact (State.ExtendedBy.refl s).finish _
  | apEnc | apMkpkt | apMkcmd => exact returnFrame_extendedBy h
  | apMkack => rw [exec, execApMkack] at h; exact returnFrame_extendedBy h
  | apMknack => rw [exec, execApMknack] at h; exact returnFrame_extendedBy h
  | apDec => exact execApDec_extendedBy h
  | apRst => exact execApRst_extendedBy h
  | rxByte => exact execRxByte_extendedBy h
  | rxEof => exact execRxEof_extendedBy h
  | sigWait => exact execSigWait_extendedBy h
  | rxRd => exact execRxRd_extendedBy h
  | rxRel => exact execRxRel_extendedBy h
  | rxTake => exact execRxTake_extendedBy h
  | dspStep => exact execDspStep_extendedBy h
  | dspSvc => exact execDspSvc_extendedBy h
  | apData | apDataAck | apCmd | apCmdAck | apAck | apNack | raRead | raWrite => exact serveWire_extendedBy h
  | raResp => cases h; exact ((State.ExtendedBy.refl s).emit _).finish _

/-! ### The moves -/

theorem runRequest_extendedBy {a : Agent} {r : Request} {s t : State} (h : runRequest a r s = .next t) :
    s.ExtendedBy t := by
  unfold runRequest at h
  split at h
  · cases h
  · split at h
    · exact exec_extendedBy h
    · cases h

theorem producerMove_extendedBy {b : Bus} {s t : State} (h : producerMove b s = .next t) : s.ExtendedBy t := by
  unfold producerMove at h
  split at h
  · cases h; exact .refl s
  · exact ((State.ExtendedBy.refl s).setQueue _ _).trans (runRequest_extendedBy h)

theorem consumerMove_extendedBy {s t : State} (h : consumerMove s = .next t) : s.ExtendedBy t := by
  have hctl (c : Ctl) : s.ExtendedBy (s.withCtl c) := (State.ExtendedBy.refl s).withCtl c
  unfold consumerMove at h
  split at h
  · exact (hctl _).trans (exec_extendedBy h)
  · exact (hctl _).trans (exec_extendedBy h)
  · cases h; exact hctl _
  · exact (hctl _).trans (exec_extendedBy h)
  · exact (hctl _).trans (exec_extendedBy h)
  · split at h
    · exact exec_extendedBy h
    · exact ((State.ExtendedBy.refl s).setQueue _ _).trans (runRequest_extendedBy h)

theorem blockReset_extendedBy (s : State) : s.ExtendedBy (blockReset s) := .of_eq rfl rfl rfl

theorem runMove_extendedBy {m : Move} {s t : State} (h : runMove m s = .next t) : s.ExtendedBy t := by
  match m with
  | .reset => cases h; exact blockReset_extendedBy s
  | .agent (.producer _) => exact producerMove_extendedBy h
  | .agent .consumer => exact consumerMove_extendedBy h

/-- Every step, a reset of the block included: the records are the environment's (log entry 18). -/
theorem step_extendedBy {s t : State} (h : step s = .next t) : s.ExtendedBy t := by
  unfold step nextMove at h
  split at h
  · cases h; exact .refl s
  · exact ((State.ExtendedBy.refl s).withSched _).trans (runMove_extendedBy h)

/-- Settles O15: every operation and every step extends the state it starts from. -/
theorem parametersAreConstantAndRecordsGrow : Obligations.ParametersAreConstantAndRecordsGrow := by
  refine ⟨fun i s t h => ?_, fun s t h => (step_extendedBy h).cfg⟩
  obtain ⟨hcfg, ⟨es, hes⟩, ⟨cs, hcs⟩⟩ := exec_extendedBy h
  exact ⟨hcfg, ⟨es, hes.symm⟩, ⟨cs, hcs.symm⟩⟩

end Sys2Proof.Machine

/-! ## Reset, and the soundness of the decoders and the channels -/

namespace Sys2Proof.Machine

/-! ### What reset leaves -/

@[simp] theorem resetWith_ap (p : Params) (b : Bus) : (State.resetWith p).ap b = ApDec.reset := by cases b <;> rfl

@[simp] theorem resetWith_rx (p : Params) (b : Bus) : (State.resetWith p).rx b = RxChan.reset := by cases b <;> rfl

/-- Settles O9: either bus has the decoder and the channel of R42. -/
theorem resetLeavesCursorsAndFlagsClear : Obligations.ResetLeavesCursorsAndFlagsClear := by
  intro p b
  rw [resetWith_ap, resetWith_rx]
  exact ⟨rfl, rfl, rfl, rfl, rfl, rfl⟩

/-- While no payload byte of the frame in progress has gone by, soundness asks nothing of the bytes in the store. -/
theorem ApDec.Sound.of_header {p : Params} {d : ApDec} (hstore : d.payload.Good apMaxPayload)
    (hpos : d.pos.toNat ≤ 3 ∨ (d.len.toNat ≤ 248 ∧ d.pos.toNat ≤ 5))
    (hflag : d.dstBad = true → 3 ≤ d.pos.toNat ∧ p.wrongAddrMode = .consume) : d.Sound p :=
  ⟨hstore, by omega, fun _ hi => absurd hi (by omega), hflag⟩

/-- A decoder whose cursor has been reset is sound whatever its other registers hold (R132). -/
theorem ApDec.Sound.of_cursor_clear {p : Params} {d : ApDec} (hstore : d.payload.Good apMaxPayload)
    (hpos : d.pos = 0#8) (hflag : d.dstBad = false) : d.Sound p :=
  .of_header hstore (.inl (by simp [hpos])) (by simp [hflag])

theorem ApDec.reset_sound (p : Params) : ApDec.reset.Sound p :=
  .of_cursor_clear (nil_good _) rfl rfl

theorem RxChan.reset_sound (p : Params) : RxChan.reset.Sound p :=
  ⟨nil_good _, nil_good _, Nat.zero_le _, nofun, nofun, nofun, nofun⟩

/-- Settles O11: the parts at reset are sound, and the consumer owes no service. -/
theorem invariantHoldsAtReset : Obligations.InvariantHoldsAtReset :=
  fun p hcap => ⟨hcap, ApDec.reset_sound p, ApDec.reset_sound p, RxChan.reset_sound p, RxChan.reset_sound p,
    nofun, List.nodup_nil, nofun⟩

/-- Both decoders and both channels are sound: the part of the invariant that no fault can come from. It says nothing of the
consumer's place, so that it passes from a state to the one a move begins in. -/
structure State.PartsSound (s : State) : Prop where
  ap : ∀ b, (s.ap b).Sound s.cfg
  rx : ∀ b, (s.rx b).Sound s.cfg

namespace State.PartsSound

theorem of_inv {s : State} (h : s.Inv) : s.PartsSound := by
  obtain ⟨-, hap0, hap1, hrx0, hrx1, -⟩ := h
  exact ⟨fun b => by cases b <;> assumption, fun b => by cases b <;> assumption⟩

theorem of_eq {s t : State} (h : s.PartsSound) (hcfg : t.cfg = s.cfg) (hap : ∀ b, t.ap b = s.ap b)
    (hrx : ∀ b, t.rx b = s.rx b) : t.PartsSound :=
  ⟨fun b => by rw [hcfg, hap]; exact h.ap b, fun b => by rw [hcfg, hrx]; exact h.rx b⟩

theorem withCtl {s : State} (h : s.PartsSound) (c : Ctl) : (s.withCtl c).PartsSound :=
  h.of_eq rfl (withCtl_ap s c) (withCtl_rx s c)

theorem withSched {s : State} (h : s.PartsSound) (ms : List Move) : (s.withSched ms).PartsSound :=
  h.of_eq rfl (withSched_ap s ms) (withSched_rx s ms)

theorem setQueue {s : State} (h : s.PartsSound) (a : Agent) (q : List Request) : (s.setQueue a q).PartsSound :=
  h.of_eq (setQueue_cfg s a q) (setQueue_ap s a q) (setQueue_rx s a q)

end State.PartsSound

end Sys2Proof.Machine

/-! ## O13: no step faults from a state of the invariant -/

namespace Sys2Proof.Machine

/-! ### `AP.DEC` on a sound decoder (R133 to R142) -/

theorem armStart_sound {b : Bus} (byte : U8) {s : State} (h : (s.ap b).Sound s.cfg) :
    ((armStart b byte s).2.ap b).Sound s.cfg := by
  unfold armStart
  split
  · rw [ap_setAp]; exact .of_header h.1 (.inl (by simp)) (by simp)
  · exact h

theorem armSrc_sound {b : Bus} (byte : U8) {s : State} (h : (s.ap b).Sound s.cfg) (hpos : (s.ap b).pos.toNat = 1) :
    ((armSrc b byte s).2.ap b).Sound s.cfg := by
  obtain ⟨hstore, -, -, hflag⟩ := h
  rw [armSrc, ap_setAp]
  exact .of_header hstore (.inl (by simp)) (fun hbad => by have := (hflag hbad).1; omega)

/-- The flag can only be set here in `CONSUME` mode (R135, R136). -/
theorem armDst_sound {b : Bus} (byte : U8) {s : State} (h : (s.ap b).Sound s.cfg) :
    ((armDst b byte s).2.ap b).Sound s.cfg := by
  obtain ⟨hstore, -, -, hflag⟩ := h
  unfold armDst
  split
  · next hmode =>
    rw [armDstConsume, ap_setAp]
    exact .of_header hstore (.inl (by simp)) (fun _ => ⟨by simp, hmode⟩)
  · unfold armDstImmediate
    split
    · rw [ap_setAp]; exact .of_header hstore (.inl (by simp)) (fun hbad => ⟨by simp, (hflag hbad).2⟩)
    · rw [resetCursor_ap, ap_setAp]; exact .of_cursor_clear hstore rfl rfl

theorem armLen_sound {b : Bus} (byte : U8) {s : State} (h : (s.ap b).Sound s.cfg) :
    ((armLen b byte s).2.ap b).Sound s.cfg := by
  obtain ⟨hstore, -, -, hflag⟩ := h
  unfold armLen
  split
  · rw [resetCursor_ap]; exact .of_cursor_clear hstore rfl rfl
  · next hlen =>
    rw [ap_setAp]
    simp only [apMaxPayload, not_lt] at hlen
    exact .of_header hstore (.inr ⟨hlen, by simp⟩) (fun hbad => ⟨by simp, (hflag hbad).2⟩)

theorem armType_sound {b : Bus} (byte : U8) {s : State} (h : (s.ap b).Sound s.cfg) (hpos : (s.ap b).pos.toNat = 4) :
    ((armType b byte s).2.ap b).Sound s.cfg := by
  obtain ⟨hstore, hlegal, -, hflag⟩ := h
  rw [armType, ap_setAp]
  have hlen : (s.ap b).len.toNat ≤ 248 := by omega
  exact .of_header hstore (.inr ⟨hlen, by simp⟩) (fun hbad => ⟨by simp, (hflag hbad).2⟩)

/-- A payload byte goes inside the store, right above the bytes already written (R139). -/
theorem armPayload_of_sound {b : Bus} (byte : U8) {s : State} (h : (s.ap b).Sound s.cfg)
    (hlow : 5 ≤ (s.ap b).pos.toNat) (hhigh : (s.ap b).pos.toNat ≤ 4 + (s.ap b).len.toNat) :
    ∃ o t, armPayload b byte s = .ok (o, t) ∧ (t.ap b).Sound s.cfg := by
  obtain ⟨hstore, hlegal, hwritten, hflag⟩ := h
  have hindex : (s.ap b).pos.toNat - 5 < 248 := by omega
  have hnext : ((s.ap b).pos + 1#8).toNat = (s.ap b).pos.toNat + 1 := by bv_omega
  refine ⟨_, _, (armPayload_ok_iff b byte s _ _).mpr ⟨hindex, rfl, rfl⟩, ?_⟩
  rw [ap_setAp]
  rw [show min ((s.ap b).pos.toNat - 5) (s.ap b).len.toNat = (s.ap b).pos.toNat - 5 by omega] at hwritten
  refine ⟨write_good _ _ _ _ hstore hindex, .inr ?_, ?_, fun hbad => ?_⟩
  · simp only [hnext]; omega
  · exact writtenBelow_mono _ _ _ (writtenBelow_write_next _ _ byte hwritten) (by simp only [hnext]; omega)
  · simp only [hnext]; exact ⟨by omega, (hflag hbad).2⟩

theorem armCrcHigh_sound {b : Bus} (byte : U8) {s : State} (h : (s.ap b).Sound s.cfg)
    (hpos : (s.ap b).pos.toNat = 5 + (s.ap b).len.toNat) : ((armCrcHigh b byte s).2.ap b).Sound s.cfg := by
  obtain ⟨hstore, hlegal, hwritten, hflag⟩ := h
  have hnext : ((s.ap b).pos + 1#8).toNat = (s.ap b).pos.toNat + 1 := by bv_omega
  rw [armCrcHigh, ap_setAp]
  refine ⟨hstore, .inr ?_, ?_, fun hbad => ?_⟩
  · simp only [hnext]; omega
  · exact writtenBelow_mono _ _ _ hwritten (by simp only [hnext]; omega)
  · simp only [hnext]; exact ⟨by omega, (hflag hbad).2⟩

/-- At the last byte of a frame all `len` payload bytes are written, so that they can be read (R141, R28). -/
theorem armCrcLow_of_sound {b : Bus} (byte : U8) {s : State} (h : (s.ap b).Sound s.cfg)
    (hpos : (s.ap b).pos.toNat = 6 + (s.ap b).len.toNat) :
    ∃ o t, armCrcLow b byte s = .ok (o, t) ∧ (t.ap b).Sound s.cfg := by
  obtain ⟨hstore, hlegal, hwritten, -⟩ := h
  obtain ⟨payload, hread, -⟩ := readBytes_of_written s (.payload b) (s.ap b).len.toNat 0
    (by simp only [storeSize, apMaxPayload]; omega) (fun j _ hj => hwritten j (by omega))
  refine ⟨_, _, (armCrcLow_ok_iff b byte s _ _).mpr ⟨payload, hread, rfl, rfl⟩, ?_⟩
  rw [ap_setAp]
  exact .of_cursor_clear hstore rfl rfl

/-- `AP.DEC` goes through on a sound decoder and leaves a sound one, arm by arm in the order of R131; no sound
decoder stands beyond its frame, so that the last arm is not reached (R142, R147). -/
theorem apDecodeByte_of_sound {b : Bus} (byte : U8) {s : State} (h : (s.ap b).Sound s.cfg) :
    ∃ o t, apDecodeByte b byte s = .ok (o, t) ∧ (t.ap b).Sound s.cfg := by
  simp only [apDecodeByte]
  split
  · exact ⟨_, _, rfl, armStart_sound byte h⟩
  split
  · next hpos => exact ⟨_, _, rfl, armSrc_sound byte h hpos⟩
  split
  · exact ⟨_, _, rfl, armDst_sound byte h⟩
  split
  · exact ⟨_, _, rfl, armLen_sound byte h⟩
  split
  · next hpos => exact ⟨_, _, rfl, armType_sound byte h hpos⟩
  split
  · next hhigh => exact armPayload_of_sound byte h (by omega) hhigh
  split
  · next hpos => exact ⟨_, _, rfl, armCrcHigh_sound byte h hpos⟩
  split
  · next hpos => exact armCrcLow_of_sound byte h hpos
  · obtain ⟨-, hlegal, -⟩ := h
    omega

/-! ### The paths of a raw frame -/

/-- Acting on an outcome leaves every decoder and the parameters as they are. -/
theorem actOnOutcome_ap_cfg (b : Bus) (o : ApOutcome) (s : State) (c : Bus) :
    (actOnOutcome b o s).ap c = s.ap c ∧ (actOnOutcome b o s).cfg = s.cfg := by
  obtain ⟨_, _, _, hact, -⟩ := actOnOutcome_spec b o s
  rw [hact]
  cases c <;> exact ⟨rfl, rfl⟩

/-- The Addressed-Packet path never stops on a sound decoder, whatever the bytes (R226). -/
theorem packetPath_of_sound {b : Bus} (frame : List U8) {s : State} (h : (s.ap b).Sound s.cfg) :
    ∃ t, packetPath b frame s = .ok t ∧ (t.ap b).Sound s.cfg := by
  induction frame generalizing s with
  | nil => exact ⟨s, rfl, h⟩
  | cons byte rest ih =>
    obtain ⟨o, s1, hbyte, hsound⟩ := apDecodeByte_of_sound byte h
    have hcfg1 : s1.cfg = s.cfg := (apDecodeByte_extendedBy hbyte).cfg
    obtain ⟨hap, hcfg⟩ := actOnOutcome_ap_cfg b o s1 b
    obtain ⟨t, hrest, ht⟩ := ih (s := actOnOutcome b o s1) (by rw [hap, hcfg, hcfg1]; exact hsound)
    exact ⟨t, by simp only [packetPath, hbyte, hrest], by rwa [hcfg, hcfg1] at ht⟩

/-- A raw frame is served to its end on either codec (R222). -/
theorem serveFrame_of_sound {b : Bus} (frame : List U8) {s : State} (h : (s.ap b).Sound s.cfg) :
    ∃ t, serveFrame b frame s = .ok t := by
  unfold serveFrame
  split
  · exact ⟨_, rfl⟩
  · obtain ⟨t, hpath, -⟩ := packetPath_of_sound frame h
    exact ⟨t, hpath⟩

/-! ### The receiver -/

/-- `RX.BYTE` writes inside the fill buffer while its cursor is (R192). -/
theorem receiveByte_ne_fault {b : Bus} {v : U8} {s : State} (h : (s.rx b).Sound s.cfg) (f : Fault) :
    receiveByte b v s ≠ .error (.fault f) := by
  obtain ⟨-, -, hcur, -⟩ := h
  by_cases hcap : s.cfg.rxCap = 0#8
  · simp [receiveByte, hcap]
  · have hok := (receiveByte_ok_iff b v s _).mpr ⟨hcap, storeIndex_lt s.cfg (s.rx b) hcap hcur, rfl⟩
    simp [hok]

/-- `RX.RD` of an owned frame reads a byte the frame's hand-off found written (R198, R28). -/
theorem readLatched_ne_fault {b : Bus} {i : U8} {s : State} (h : (s.rx b).Sound s.cfg) (f : Fault) :
    readLatched b i s ≠ .error (.fault f) := by
  obtain ⟨-, -, -, -, hflen, -, hlatched⟩ := h
  by_cases howned : s.owned b = true
  · by_cases hi : i.toNat < (s.rx b).flen.toNat
    · have hfull := ((owned_iff s b).mp howned).1
      obtain ⟨v, hv⟩ := Option.isSome_iff_exists.mp (hlatched hfull i.toNat hi)
      have hok := (readLatched_ok_iff b i v s).mpr ⟨howned, hi, by have := hflen hfull; omega, hv⟩
      simp [hok]
    · simp [readLatched, howned, not_lt.mp hi]
  · simp [readLatched, howned]

/-- `RX.TAKE` of an owned frame reads the bytes its hand-off found written (R200, R28). -/
theorem takeFrame_ne_fault {b : Bus} {s : State} (h : (s.rx b).Sound s.cfg) (f : Fault) :
    takeFrame b s ≠ .error (.fault f) := by
  obtain ⟨-, -, -, -, hflen, -, hlatched⟩ := h
  by_cases howned : s.owned b = true
  · have hfull := ((owned_iff s b).mp howned).1
    obtain ⟨frame, hok⟩ := takeFrame_of_written b s howned (hflen hfull) (hlatched hfull)
    simp [hok]
  · simp [takeFrame, howned]

/-! ### The meanings -/

theorem returnFrame_ne_fault (frame : Except Refusal (List U8)) (s : State) (f : Fault) :
    returnFrame frame s ≠ .fault f := by
  cases frame <;> simp [returnFrame]

theorem execApDec_ne_fault {b : Bus} {byte : U8} {s : State} (h : (s.ap b).Sound s.cfg) (f : Fault) :
    execApDec b byte s ≠ .fault f := by
  obtain ⟨o, t, hbyte, -⟩ := apDecodeByte_of_sound byte h
  unfold execApDec
  split
  · simp [hbyte]
  · simp

theorem execApRst_ne_fault (b : Bus) (s : State) (f : Fault) : execApRst b s ≠ .fault f := by
  unfold execApRst
  split <;> simp

theorem execRxByte_ne_fault {b : Bus} {v : U8} {s : State} (h : (s.rx b).Sound s.cfg) (f : Fault) :
    execRxByte b v s ≠ .fault f := by
  rw [execRxByte, ne_eq, toAnswer_fault_iff]
  split
  · next hbyte => rintro ⟨⟩; exact receiveByte_ne_fault h f hbyte
  · nofun

theorem execRxRd_ne_fault {b : Bus} {i : U8} {s : State} (h : (s.rx b).Sound s.cfg) (f : Fault) :
    execRxRd b i s ≠ .fault f := by
  rw [execRxRd, ne_eq, toAnswer_fault_iff]
  split
  · next hread => rintro ⟨⟩; exact readLatched_ne_fault h f hread
  · nofun

theorem execRxRel_ne_fault (b : Bus) (s : State) (f : Fault) : execRxRel b s ≠ .fault f := by
  unfold execRxRel
  split <;> simp

theorem execRxTake_ne_fault {b : Bus} {s : State} (h : (s.rx b).Sound s.cfg) (f : Fault) :
    execRxTake b s ≠ .fault f := by
  rw [execRxTake, ne_eq, toAnswer_fault_iff]
  split
  · next htake => rintro ⟨⟩; exact takeFrame_ne_fault h f htake
  · nofun

/-- The release between the copy and the service leaves the decoder as it is, so that the service is of a sound one. -/
theorem execDspSvc_ne_fault {b : Bus} {s : State} (h : s.PartsSound) (f : Fault) : execDspSvc b s ≠ .fault f := by
  rw [execDspSvc, ne_eq, toAnswer_fault_iff]
  split
  · next htake => rintro ⟨⟩; exact takeFrame_ne_fault (h.rx b) f htake
  · next frame s1 htake =>
    obtain ⟨-, rfl, -⟩ := takeFrame_ok b s s1 frame htake
    obtain ⟨t, hserve⟩ := serveFrame_of_sound frame (b := b) (s := s.release b) (by simpa using h.ap b)
    simp [hserve]

theorem serveWire_ne_fault {b : Bus} {bytes : List U8} {s : State} (h : (s.ap b).Sound s.cfg) (f : Fault) :
    serveWire b bytes s ≠ .fault f := by
  obtain ⟨t, hserve⟩ := serveFrame_of_sound bytes h
  simp [serveWire, hserve]

/-- No operation faults on sound parts, by the family of its meaning. -/
theorem exec_ne_fault {s : State} (h : s.PartsSound) (i : Instr) (f : Fault) : exec i s ≠ .fault f := by
  cases i with
  | crc16 | crc8 | raDec | raEnc | raResp | rxEof | sigWait | dspStep => nofun
  | apEnc | apMkpkt | apMkcmd => exact returnFrame_ne_fault _ s f
  | apMkack => rw [exec, execApMkack]; exact returnFrame_ne_fault _ s f
  | apMknack => rw [exec, execApMknack]; exact returnFrame_ne_fault _ s f
  | apDec b => exact execApDec_ne_fault (h.ap b) f
  | apRst b => exact execApRst_ne_fault b s f
  | rxByte b => exact execRxByte_ne_fault (h.rx b) f
  | rxRd b => exact execRxRd_ne_fault (h.rx b) f
  | rxRel b => exact execRxRel_ne_fault b s f
  | rxTake b => exact execRxTake_ne_fault (h.rx b) f
  | dspSvc b => exact execDspSvc_ne_fault h f
  | apData b | apDataAck b | apCmd b | apCmdAck b | apAck b | apNack b | raRead b | raWrite b =>
    exact serveWire_ne_fault (h.ap b) f

/-! ### The moves -/

theorem runRequest_ne_fault {s : State} (h : s.PartsSound) (a : Agent) (r : Request) (f : Fault) :
    runRequest a r s ≠ .fault f := by
  unfold runRequest
  split
  · nofun
  · split
    · exact exec_ne_fault h _ f
    · nofun

theorem producerMove_ne_fault {s : State} (h : s.PartsSound) (b : Bus) (f : Fault) : producerMove b s ≠ .fault f := by
  unfold producerMove
  split
  · nofun
  · exact runRequest_ne_fault (h.setQueue _ _) _ _ f

theorem consumerMove_ne_fault {s : State} (h : s.PartsSound) (f : Fault) : consumerMove s ≠ .fault f := by
  unfold consumerMove
  split
  · exact exec_ne_fault (h.withCtl _) _ f
  · exact exec_ne_fault (h.withCtl _) _ f
  · nofun
  · exact exec_ne_fault (h.withCtl _) _ f
  · exact exec_ne_fault (h.withCtl _) _ f
  · split
    · exact exec_ne_fault h _ f
    · exact runRequest_ne_fault (h.setQueue _ _) _ _ f

theorem runMove_ne_fault {s : State} (h : s.PartsSound) (m : Move) (f : Fault) : runMove m s ≠ .fault f := by
  match m with
  | .reset => nofun
  | .agent (.producer b) => exact producerMove_ne_fault h b f
  | .agent .consumer => exact consumerMove_ne_fault h f

theorem step_ne_fault {s : State} (h : s.PartsSound) (f : Fault) : step s ≠ .fault f := by
  unfold step nextMove
  split
  · nofun
  · exact runMove_ne_fault (h.withSched _) _ f

/-- Settles O13: the invariant gives sound parts, and no step faults on them. -/
theorem noStepFaultsUnderTheInvariant : Obligations.NoStepFaultsUnderTheInvariant :=
  fun _ f hinv => step_ne_fault (.of_inv hinv) f

end Sys2Proof.Machine

/-! ## O31 and O49: what `AP.DEC` and `RX.TAKE` write and read -/

namespace Sys2Proof.Machine

/-- Where `AP.DEC` completes: the codec is the Addressed-Packet one, and the byte's outcome is the result. -/
theorem execApDec_next_iff (b : Bus) (byte : U8) (s t : State) :
    execApDec b byte s = .next t ↔
      codecOf s.cfg b = .ap ∧ ∃ o s1, apDecodeByte b byte s = .ok (o, s1) ∧ t = s1.finish (.ap o) := by
  unfold execApDec
  split
  · next hcodec =>
    rw [toAnswer_next_iff]
    rcases apDecodeByte b byte s with _ | ⟨o, s1⟩ <;> simp [hcodec, eq_comm]
  · next hcodec => simp [hcodec]

/-- Settles O31: the frame of the byte step, and its dependence on the parameters and the decoder alone. -/
theorem apDecTouchesItsInstanceOnly : Obligations.ApDecTouchesItsInstanceOnly := by
  constructor
  · intro s t b byte h
    obtain ⟨-, o, s1, hbyte, rfl⟩ := (execApDec_next_iff b byte s t).mp h
    rw [finish_ap, finish_result, ← (apDecodeByte_ok b byte s s1 o hbyte).1]
  · intro s s' t b byte hcfg hap h
    obtain ⟨hcodec, o, s1, hbyte, rfl⟩ := (execApDec_next_iff b byte s t).mp h
    have hbyte' := apDecodeByte_congr b byte s s' s1 o hcfg hap hbyte
    exact ⟨_, (execApDec_next_iff b byte s' _).mpr ⟨by rw [hcfg]; exact hcodec, o, _, hbyte', rfl⟩, by simp, rfl⟩

theorem takeFrame_ok_iff (b : Bus) (s t : State) (frame : List U8) :
    takeFrame b s = .ok (frame, t) ↔
      s.owned b = true ∧ s.readBytes (s.latchedSpace b) 0 (s.rx b).flen.toNat = .ok frame ∧ t = s.release b := by
  unfold takeFrame
  split
  · next howned => cases s.readBytes (s.latchedSpace b) 0 (s.rx b).flen.toNat <;> simp [howned, eq_comm]
  · next howned => simp [howned]

/-- Where `RX.TAKE` completes: the frame taken is the result. -/
theorem execRxTake_next_iff (b : Bus) (s t : State) :
    execRxTake b s = .next t ↔ ∃ frame s1, takeFrame b s = .ok (frame, s1) ∧ t = s1.finish (.taken frame) := by
  rw [execRxTake, toAnswer_next_iff]
  rcases takeFrame b s with _ | ⟨frame, s1⟩ <;> simp [eq_comm]

/-- Replacing the bytes of the latched buffer leaves the channel's registers, ownership and the choice of buffer. -/
theorem setStore_latchedSpace (s : State) (b : Bus) (m : Memory) :
    s.setStore (s.latchedSpace b) m = s.setRx b ((s.rx b).setBuf (s.rx b).wsel.other m) := rfl

@[simp] theorem latchedSpace_setLatched (s : State) (b : Bus) (m : Memory) :
    (s.setStore (s.latchedSpace b) m).latchedSpace b = s.latchedSpace b := by
  rw [setStore_latchedSpace]; simp [State.latchedSpace]

@[simp] theorem owned_setLatched (s : State) (b : Bus) (m : Memory) :
    (s.setStore (s.latchedSpace b) m).owned b = s.owned b := by
  simp [setStore_latchedSpace, State.owned]

@[simp] theorem flen_setLatched (s : State) (b : Bus) (m : Memory) :
    ((s.setStore (s.latchedSpace b) m).rx b).flen = (s.rx b).flen := by
  simp [setStore_latchedSpace]

/-- `RX.TAKE` copies the same frame from any two latched buffers that agree below `flen` (R36). -/
theorem takeFrame_setLatched {b : Bus} {s t : State} {frame : List U8} (m : Memory)
    (hagree : ∀ i, i < (s.rx b).flen.toNat → m.read i = (s.rx b).latched.read i) (h : takeFrame b s = .ok (frame, t)) :
    takeFrame b (s.setStore (s.latchedSpace b) m) = .ok (frame, (s.setStore (s.latchedSpace b) m).release b) := by
  obtain ⟨howned, hread, -⟩ := (takeFrame_ok_iff b s t frame).mp h
  refine (takeFrame_ok_iff b _ _ frame).mpr ⟨by rw [owned_setLatched, howned], ?_, rfl⟩
  rw [latchedSpace_setLatched, flen_setLatched]
  refine readBytes_congr s _ _ _ _ 0 (by rw [setStore_cfg]) frame (fun j _ hj => ?_) hread
  rw [store_setStore, store_latched]
  exact hagree j (by omega)

/-- Settles O49: the frame is that of the bytes below `flen`, and either buffer is released. -/
theorem staleBytesAreNotObservable : Obligations.StaleBytesAreNotObservable := by
  intro s t b m hagree h
  obtain ⟨frame, s1, htake, rfl⟩ := (execRxTake_next_iff b s t).mp h
  obtain ⟨-, rfl, -⟩ := takeFrame_ok b s s1 frame htake
  refine ⟨_, (execRxTake_next_iff b _ _).mpr ⟨frame, _, takeFrame_setLatched m hagree htake, rfl⟩, rfl, ?_⟩
  simp [RxChan.released]

end Sys2Proof.Machine

/-! ## O5: a step runs the decoded instruction -/

namespace Sys2Proof.Machine

/-- A move listed is the one that is made (20_memory.md R60). -/
theorem step_of_sched {s : State} {m : Move} {ms : List Move} (h : s.sched = m :: ms) :
    step s = runMove m (s.withSched ms) := by
  rw [step, nextMove, h]

/-- A request is run as the instruction it decodes to, where its agent may issue it (60_exceptions.md R262). -/
theorem runRequest_of_decode {a : Agent} {r : Request} {i : Instr} (s : State) (hdecode : decode r = .ok i)
    (hissue : mayIssue a i = true) : runRequest a r s = exec i s := by
  simp [runRequest, hdecode, hissue]

theorem producerMove_of_queue {s : State} {b : Bus} {r : Request} {rest : List Request}
    (h : s.queue (.producer b) = r :: rest) :
    producerMove b s = runRequest (.producer b) r (s.setQueue (.producer b) rest) := by
  rw [producerMove, h]

/-- Between two operations the consumer issues the first of its requests. -/
theorem consumerMove_of_queue {s : State} {r : Request} {rest : List Request} (hctl : s.ctl = .ready)
    (h : s.queue .consumer = r :: rest) :
    consumerMove s = runRequest .consumer r (s.setQueue .consumer rest) := by
  have hqueue : s.queueC = r :: rest := h
  simp [consumerMove, hctl, hqueue]

/-- An agent that is between two operations runs the first of its requests on the state without it. -/
theorem runMove_of_queue {s : State} {a : Agent} {r : Request} {rest : List Request} (h : s.queue a = r :: rest)
    (hctl : a = .consumer → s.ctl = .ready) : runMove (.agent a) s = runRequest a r (s.setQueue a rest) := by
  cases a with
  | producer b => exact producerMove_of_queue h
  | consumer => exact consumerMove_of_queue (hctl rfl) h

/-- Settles O5: the move is taken, then the request, and what the request decodes to is run. -/
theorem stepRunsTheDecodedInstruction : Obligations.StepRunsTheDecodedInstruction := by
  intro s a r rest ms i hsched hqueue hctl hdecode _ hissue
  calc step s = runMove (.agent a) (s.withSched ms) := step_of_sched hsched
    _ = runRequest a r ((s.withSched ms).setQueue a rest) := runMove_of_queue ((queue_withSched s a ms).trans hqueue) hctl
    _ = exec i ((s.withSched ms).setQueue a rest) := runRequest_of_decode _ hdecode hissue

end Sys2Proof.Machine

/-! ## O50: the operations of the two producers commute

A producer operation replaces its own bus's channel and appends to the events, and both the channel and the events it
appends are determined by the parameters and that channel alone (R63, 10_state.md R37). -/

namespace Sys2Proof.Machine

/-- The state after a producer operation of bus `b` that leaves the channel `c` and emits `es`. -/
def State.produced (s : State) (b : Bus) (c : RxChan) (es : List Event) : State :=
  { s.setRx b c with result := .none, events := s.events ++ es }

@[simp] theorem produced_cfg (s : State) (b : Bus) (c : RxChan) (es : List Event) : (s.produced b c es).cfg = s.cfg :=
  setRx_cfg s b c

@[simp] theorem produced_rx_other (s : State) (b : Bus) (c : RxChan) (es : List Event) :
    (s.produced b c es).rx (otherBus b) = s.rx (otherBus b) := by cases b <;> rfl

@[simp] theorem produced_events (s : State) (b : Bus) (c : RxChan) (es : List Event) :
    (s.produced b c es).events = s.events ++ es := rfl

/-- Only the order of the events tells in which order the two buses' channels were replaced. -/
theorem produced_comm (s : State) (b : Bus) (c d : RxChan) (es fs : List Event) :
    (s.produced (otherBus b) d fs).produced b c es =
      { (s.produced b c es).produced (otherBus b) d fs with events := s.events ++ fs ++ es } := by
  cases b <;> rfl

/-- From every state with parameters `p` and channel `c` at bus `b`, the instruction completes as one and the same producer
operation of bus `b`. -/
def Produces (i : Instr) (b : Bus) (p : Params) (c : RxChan) : Prop :=
  ∃ c' es, ∀ s : State, s.cfg = p → s.rx b = c → exec i s = .next (s.produced b c' es)

/-- `RX.BYTE` stores inside the fill buffer and moves the cursor; it emits nothing (R192). -/
theorem rxByte_produces {b : Bus} {p : Params} {c : RxChan} (v : U8) (hcap : p.rxCap ≠ 0#8) (hc : c.Sound p) :
    Produces (.rxByte b v) b p c := by
  obtain ⟨-, -, hcur, -⟩ := hc
  refine ⟨{ c.setBuf c.wsel (c.fill.write (storeIndex p c).toNat v) with cur := storeIndex p c + 1#8 }, [],
    fun s hcfg hrx => ?_⟩
  subst hcfg hrx
  have hbyte := (receiveByte_ok_iff b v s _).mpr ⟨hcap, storeIndex_lt s.cfg (s.rx b) hcap hcur, rfl⟩
  rw [exec, execRxByte, hbyte, State.produced, List.append_nil, ← setRx_events s b]
  rfl

/-- `RX.EOF` hands the frame off to a free channel and drops it from a full one (R194, R195). -/
theorem rxEof_produces (b : Bus) (p : Params) (c : RxChan) : Produces (.rxEof b) b p c := by
  cases hfull : c.full with
  | false =>
    refine ⟨{ c with flen := c.cur, wsel := c.wsel.other, full := true, sig := true, cur := 0#8 }, [.wake b],
      fun s _ hrx => ?_⟩
    subst hrx
    rw [exec, execRxEof, endOfFrame_free b s hfull, handOff, State.produced, ← setRx_events s b]
    rfl
  | true =>
    refine ⟨{ c with cur := 0#8 }, [.rxDropped b], fun s _ hrx => ?_⟩
    subst hrx
    rw [exec, execRxEof, endOfFrame_full b s hfull, overrun, State.produced, ← setRx_events s b]
    rfl

/-- Either operation of the producer of bus `b`, from a sound channel. -/
theorem producerOp_produces {b : Bus} {p : Params} {c : RxChan} {v : U8} (hcap : p.rxCap ≠ 0#8) (hc : c.Sound p)
    {i : Instr} (hi : i ∈ [Instr.rxByte b v, .rxEof b]) : Produces i b p c := by
  simp only [List.mem_cons, List.not_mem_nil, or_false] at hi
  obtain rfl | rfl := hi
  · exact rxByte_produces v hcap hc
  · exact rxEof_produces b p c

theorem execAll_pair {i j : Instr} {s t u : State} (hi : exec i s = .next t) (hj : exec j t = .next u) :
    execAll [i, j] s = .next u := by
  simp [execAll, hi, hj]

/-- Neither of two operations that each produce on a bus of their own sees the other's channel. -/
theorem Produces.commute {i j : Instr} {b : Bus} {s : State} (hi : Produces i b s.cfg (s.rx b))
    (hj : Produces j (otherBus b) s.cfg (s.rx (otherBus b))) :
    ∃ t u, execAll [i, j] s = .next t ∧ execAll [j, i] s = .next u ∧
      u = { t with events := u.events } ∧ u.events.Perm t.events := by
  obtain ⟨c, es, hi⟩ := hi
  obtain ⟨d, fs, hj⟩ := hj
  have hrx : (s.produced (otherBus b) d fs).rx b = s.rx b := by
    simpa using produced_rx_other s (otherBus b) d fs
  refine ⟨_, _, execAll_pair (hi s rfl rfl) (hj _ (by simp) (by simp)),
    execAll_pair (hj s rfl rfl) (hi _ (by simp) hrx), produced_comm s b c d es fs, ?_⟩
  simpa using List.perm_append_comm.append_left s.events

/-- Settles O50: under the invariant both producers' operations complete, each on its own channel. -/
theorem producersOfTheTwoBusesCommute : Obligations.ProducersOfTheTwoBusesCommute := by
  intro s v w hinv i hi j hj
  have hrx := (State.PartsSound.of_inv hinv).rx
  obtain ⟨hcap, -⟩ := hinv
  exact Produces.commute (b := .bus0) (producerOp_produces hcap (hrx .bus0) hi) (producerOp_produces hcap (hrx .bus1) hj)

end Sys2Proof.Machine

/-! ## O1 and O2: `decode` and `encode` are inverse to each other

One lemma for each operand form and each frame layout says which bytes are accepted and what becomes of them. -/

/-! ### Multi-byte fields (20_memory.md R54) -/

namespace Sys2Proof.Machine

@[simp] theorem half_hiByte_loByte (v : U16) : half (hiByte v) (loByte v) = v :=
  (BitVec.extractLsb'_append_extractLsb'_eq_extractLsb' rfl).trans BitVec.extractLsb'_eq_self

@[simp] theorem hiByte_half (hi lo : U8) : hiByte (half hi lo) = hi := BitVec.extractLsb'_append_eq_left

@[simp] theorem loByte_half (hi lo : U8) : loByte (half hi lo) = lo := BitVec.extractLsb'_append_eq_right

@[simp] theorem wordBytes_word (b3 b2 b1 b0 : U8) : wordBytes (word b3 b2 b1 b0) = [b3, b2, b1, b0] := by
  have hb0 : (word b3 b2 b1 b0).extractLsb' 0 8 = b0 := BitVec.extractLsb'_append_eq_right
  have hb1 : (word b3 b2 b1 b0).extractLsb' 8 8 = b1 :=
    (BitVec.extractLsb'_append_eq_of_le (by omega)).trans BitVec.extractLsb'_append_eq_right
  have hb2 : (word b3 b2 b1 b0).extractLsb' 16 8 = b2 :=
    (BitVec.extractLsb'_append_eq_of_le (by omega)).trans
      ((BitVec.extractLsb'_append_eq_of_le (by omega)).trans BitVec.extractLsb'_append_eq_right)
  have hb3 : (word b3 b2 b1 b0).extractLsb' 24 8 = b3 :=
    (BitVec.extractLsb'_append_eq_of_le (by omega)).trans
      ((BitVec.extractLsb'_append_eq_of_le (by omega)).trans BitVec.extractLsb'_append_eq_left)
  rw [wordBytes, hb0, hb1, hb2, hb3]

theorem wordBytes_eq_iff (v : U32) (b3 b2 b1 b0 : U8) :
    wordBytes v = [b3, b2, b1, b0] ↔ word b3 b2 b1 b0 = v := by
  constructor
  · intro h
    simp only [wordBytes, List.cons.injEq, and_true] at h
    obtain ⟨rfl, rfl, rfl, rfl⟩ := h
    exact word_wordBytes v
  · rintro rfl
    exact wordBytes_word b3 b2 b1 b0

end Sys2Proof.Machine

namespace Sys2Proof

open Sys2Proof.Machine (hiByte loByte half half_hiByte_loByte hiByte_half loByte_half wordBytes word word_wordBytes
  wordBytes_eq_iff)

/-! ### The operand forms -/

theorem decodeBus_ok_iff (v : U8) (b : Bus) : decodeBus v = .ok b ↔ v = encodeBus b := by
  unfold decodeBus
  split
  · subst v; cases b <;> simp [encodeBus]
  · split
    · subst v; cases b <;> simp [encodeBus]
    · cases b <;> simp [encodeBus, *]

theorem decodeBool_ok_iff (v : U8) (a : Bool) : decodeBool v = .ok a ↔ v = encodeBool a := by
  unfold decodeBool
  split
  · subst v; cases a <;> simp [encodeBool]
  · split
    · subst v; cases a <;> simp [encodeBool]
    · cases a <;> simp [encodeBool, *]

theorem map_ok_iff {ε α β : Type} (x : Except ε α) (f : α → β) (y : β) :
    x.map f = .ok y ↔ ∃ a, x = .ok a ∧ f a = y := by
  cases x <;> simp [Except.map]

section Operands

variable {code : U8} {rest : List U8} {i : Instr}

theorem operandsNone_ok_iff {j : Instr} : operandsNone code rest j = .ok i ↔ rest = [] ∧ j = i := by
  unfold operandsNone
  split <;> simp

theorem operandsBus_ok_iff {f : Bus → Instr} :
    operandsBus code rest f = .ok i ↔ ∃ b, rest = [encodeBus b] ∧ f b = i := by
  unfold operandsBus
  split
  · simp [map_ok_iff, decodeBus_ok_iff]
  · next h => grind

theorem operandsBusByte_ok_iff {f : Bus → U8 → Instr} :
    operandsBusByte code rest f = .ok i ↔ ∃ b x, rest = [encodeBus b, x] ∧ f b x = i := by
  unfold operandsBusByte
  split
  · simp [map_ok_iff, decodeBus_ok_iff]
  · next h => grind

theorem operandsByte_ok_iff {f : U8 → Instr} : operandsByte code rest f = .ok i ↔ ∃ x, rest = [x] ∧ f x = i := by
  unfold operandsByte
  split
  · simp
  · next h => grind

theorem operandsHalfData_ok_iff {f : U16 → List U8 → Instr} : operandsHalfData code rest f = .ok i ↔
    ∃ v data, rest = hiByte v :: loByte v :: data ∧ f v data = i := by
  unfold operandsHalfData
  split
  · next hi lo data =>
    constructor
    · intro h
      exact ⟨half hi lo, data, by simp, Except.ok.inj h⟩
    · rintro ⟨v, d, hrest, rfl⟩
      obtain ⟨rfl, rfl, rfl⟩ : hi = hiByte v ∧ lo = loByte v ∧ data = d := by simpa using hrest
      rw [half_hiByte_loByte]
  · next h => grind

theorem operandsByteData_ok_iff {f : U8 → List U8 → Instr} :
    operandsByteData code rest f = .ok i ↔ ∃ x data, rest = x :: data ∧ f x data = i := by
  unfold operandsByteData
  split
  · simp
  · next h => grind

theorem operandsTwoBytesData_ok_iff {f : U8 → U8 → List U8 → Instr} :
    operandsTwoBytesData code rest f = .ok i ↔ ∃ x y data, rest = x :: y :: data ∧ f x y data = i := by
  unfold operandsTwoBytesData
  split
  · simp
  · next h => grind

theorem operandsThreeBytesData_ok_iff {f : U8 → U8 → U8 → List U8 → Instr} :
    operandsThreeBytesData code rest f = .ok i ↔ ∃ x y z data, rest = x :: y :: z :: data ∧ f x y z data = i := by
  unfold operandsThreeBytesData
  split
  · simp
  · next h => grind

theorem operandsTwoBytesBool_ok_iff {f : U8 → U8 → Bool → Instr} :
    operandsTwoBytesBool code rest f = .ok i ↔ ∃ x y a, rest = [x, y, encodeBool a] ∧ f x y a = i := by
  unfold operandsTwoBytesBool
  split
  · grind [map_ok_iff, decodeBool_ok_iff]
  · next h => grind

theorem operandsByteWord_ok_iff {f : U8 → U32 → Instr} :
    operandsByteWord code rest f = .ok i ↔ ∃ x v, rest = x :: wordBytes v ∧ f x v = i := by
  unfold operandsByteWord
  split
  · next x b3 b2 b1 b0 => simp [eq_comm (b := wordBytes _), wordBytes_eq_iff]
  · next h =>
    simp only [reduceCtorEq, false_iff]
    rintro ⟨x, v, hrest, -⟩
    exact h _ _ _ _ _ hrest

theorem operandsRawFrame_ok_iff {f : List U8 → Instr} :
    operandsRawFrame rest f = .ok i ↔ rawFrameFits rest = true ∧ f rest = i := by
  unfold operandsRawFrame
  split <;> simp [*]

end Operands

/-- An operation's request is its code and its operands, and the code says what form the operands have (R96). -/
theorem wellFormed_encode_of_decodeOp {code : U8} {rest : List U8} {i : Instr} (h : decodeOp code rest = .ok i) :
    WellFormed i = true ∧ encode i = ⟨.op, code :: rest⟩ := by
  rcases ite_eq_iff.mp h with ⟨rfl, h⟩ | ⟨-, h⟩
  · obtain ⟨seed, data, rfl, rfl⟩ := operandsHalfData_ok_iff.mp h; exact ⟨rfl, rfl⟩
  rcases ite_eq_iff.mp h with ⟨rfl, h⟩ | ⟨-, h⟩
  · obtain ⟨seed, data, rfl, rfl⟩ := operandsByteData_ok_iff.mp h; exact ⟨rfl, rfl⟩
  rcases ite_eq_iff.mp h with ⟨rfl, h⟩ | ⟨-, h⟩
  · obtain ⟨b, byte, rfl, rfl⟩ := operandsBusByte_ok_iff.mp h; exact ⟨rfl, rfl⟩
  rcases ite_eq_iff.mp h with ⟨rfl, h⟩ | ⟨-, h⟩
  · obtain ⟨b, rfl, rfl⟩ := operandsBus_ok_iff.mp h; exact ⟨rfl, rfl⟩
  rcases ite_eq_iff.mp h with ⟨rfl, h⟩ | ⟨-, h⟩
  · obtain ⟨src, dst, typ, payload, rfl, rfl⟩ := operandsThreeBytesData_ok_iff.mp h; exact ⟨rfl, rfl⟩
  rcases ite_eq_iff.mp h with ⟨rfl, h⟩ | ⟨-, h⟩
  · obtain ⟨dest, typ, payload, rfl, rfl⟩ := operandsTwoBytesData_ok_iff.mp h; exact ⟨rfl, rfl⟩
  rcases ite_eq_iff.mp h with ⟨rfl, h⟩ | ⟨-, h⟩
  · obtain ⟨cmd, dest, ack, rfl, rfl⟩ := operandsTwoBytesBool_ok_iff.mp h; exact ⟨rfl, rfl⟩
  rcases ite_eq_iff.mp h with ⟨rfl, h⟩ | ⟨-, h⟩
  · obtain ⟨dest, rfl, rfl⟩ := operandsByte_ok_iff.mp h; exact ⟨rfl, rfl⟩
  rcases ite_eq_iff.mp h with ⟨rfl, h⟩ | ⟨-, h⟩
  · obtain ⟨dest, rfl, rfl⟩ := operandsByte_ok_iff.mp h; exact ⟨rfl, rfl⟩
  rcases ite_eq_iff.mp h with ⟨rfl, h⟩ | ⟨-, h⟩
  · obtain ⟨hfits, rfl⟩ := operandsRawFrame_ok_iff.mp h; exact ⟨hfits, rfl⟩
  rcases ite_eq_iff.mp h with ⟨rfl, h⟩ | ⟨-, h⟩
  · obtain ⟨addr, value, rfl, rfl⟩ := operandsByteWord_ok_iff.mp h; exact ⟨rfl, rfl⟩
  rcases ite_eq_iff.mp h with ⟨rfl, h⟩ | ⟨-, h⟩
  · obtain ⟨b, v, rfl, rfl⟩ := operandsBusByte_ok_iff.mp h; exact ⟨rfl, rfl⟩
  rcases ite_eq_iff.mp h with ⟨rfl, h⟩ | ⟨-, h⟩
  · obtain ⟨b, rfl, rfl⟩ := operandsBus_ok_iff.mp h; exact ⟨rfl, rfl⟩
  rcases ite_eq_iff.mp h with ⟨rfl, h⟩ | ⟨-, h⟩
  · obtain ⟨rfl, rfl⟩ := operandsNone_ok_iff.mp h; exact ⟨rfl, rfl⟩
  rcases ite_eq_iff.mp h with ⟨rfl, h⟩ | ⟨-, h⟩
  · obtain ⟨b, n, rfl, rfl⟩ := operandsBusByte_ok_iff.mp h; exact ⟨rfl, rfl⟩
  rcases ite_eq_iff.mp h with ⟨rfl, h⟩ | ⟨-, h⟩
  · obtain ⟨b, rfl, rfl⟩ := operandsBus_ok_iff.mp h; exact ⟨rfl, rfl⟩
  rcases ite_eq_iff.mp h with ⟨rfl, h⟩ | ⟨-, h⟩
  · obtain ⟨b, rfl, rfl⟩ := operandsBus_ok_iff.mp h; exact ⟨rfl, rfl⟩
  rcases ite_eq_iff.mp h with ⟨rfl, h⟩ | ⟨-, h⟩
  · obtain ⟨rfl, rfl⟩ := operandsNone_ok_iff.mp h; exact ⟨rfl, rfl⟩
  rcases ite_eq_iff.mp h with ⟨rfl, h⟩ | ⟨-, h⟩
  · obtain ⟨b, rfl, rfl⟩ := operandsBus_ok_iff.mp h; exact ⟨rfl, rfl⟩
  · cases h

/-! ### Frames (R81 to R94) -/

/-- The TYPE of a frame names its row, and its operands are the frame's (R84). -/
theorem encode_of_apFrameKind {b : Bus} {src dst typ : U8} {payload : List U8} {crc : U16} {i : Instr}
    (h : apFrameKind b src dst typ payload crc = .ok i) :
    WellFormed i = payloadFits payload ∧ encode i = ⟨.frameIn b, apFrameBytes src dst typ payload crc⟩ := by
  unfold apFrameKind at h
  split_ifs at h <;> cases h <;> subst typ <;> exact ⟨rfl, rfl⟩

/-- A payload that fits is counted by its LEN byte (R81). -/
theorem toNat_length_of_fits {payload : List U8} (h : payload.length ≤ 248) :
    (BitVec.ofNat 8 payload.length).toNat = payload.length := by
  rw [BitVec.toNat_ofNat]
  omega

/-- LEN payload bytes and two checksum bytes after the header are split up again (R85, R86). -/
theorem apFrameBody_of_payload (b : Bus) (src dst typ : U8) {payload : List U8} (crc : U16)
    (h : payloadFits payload = true) :
    apFrameBody b src dst (BitVec.ofNat 8 payload.length) typ (payload ++ [hiByte crc, loByte crc]) =
      apFrameKind b src dst typ payload crc := by
  have hfits : payload.length ≤ 248 := of_decide_eq_true h
  simp [apFrameBody, toNat_length_of_fits hfits, apMaxPayload, hfits]

/-- What follows the header is the payload, as long as LEN says, and the two checksum bytes (R85, R86). -/
theorem eq_payload_of_apFrameBody {b : Bus} {src dst len typ : U8} {rest : List U8} {i : Instr}
    (h : apFrameBody b src dst len typ rest = .ok i) :
    ∃ payload crc, payloadFits payload = true ∧ len = BitVec.ofNat 8 payload.length ∧
      rest = payload ++ [hiByte crc, loByte crc] ∧ apFrameKind b src dst typ payload crc = .ok i := by
  unfold apFrameBody at h
  split at h
  · cases h
  split at h
  · cases h
  split at h
  · next hlarge hlength _ hi lo htail =>
    have hlen : len.toNat ≤ 248 := not_lt.mp hlarge
    have htake : (rest.take len.toNat).length = len.toNat := by rw [List.length_take]; omega
    refine ⟨rest.take len.toNat, half hi lo, decide_eq_true (by omega), ?_, ?_, h⟩
    · rw [htake, BitVec.ofNat_toNat, BitVec.setWidth_eq]
    · rw [hiByte_half, loByte_half, ← htail, List.take_append_drop]
  · cases h

/-- Seven bytes or more are read as an Addressed Packet (R86). -/
theorem decodeFrameIn_of_header {b : Bus} {src dst len typ : U8} {rest : List U8} (h : 2 ≤ rest.length) :
    decodeFrameIn b (apSof :: src :: dst :: len :: typ :: rest) = apFrameBody b src dst len typ rest := by
  match rest, h with
  | x :: y :: rest, _ => simp [decodeFrameIn]

/-- Decoding the bytes of a well-formed frame leads to its TYPE (R81, R84). -/
theorem decodeFrameIn_apFrameBytes (b : Bus) (src dst typ : U8) {payload : List U8} (crc : U16)
    (h : payloadFits payload = true) :
    decodeFrameIn b (apFrameBytes src dst typ payload crc) = apFrameKind b src dst typ payload crc :=
  (decodeFrameIn_of_header (by simp)).trans (apFrameBody_of_payload b src dst typ crc h)

theorem wellFormed_encode_of_decodeFrameIn {b : Bus} {bytes : List U8} {i : Instr} (h : decodeFrameIn b bytes = .ok i) :
    WellFormed i = true ∧ encode i = ⟨.frameIn b, bytes⟩ := by
  unfold decodeFrameIn at h
  split at h
  · cases h; exact ⟨rfl, rfl⟩
  · cases h; exact ⟨rfl, by simp [encode, raWriteBytes]⟩
  · split at h
    · cases h
    · next hstart =>
      obtain ⟨payload, crc, hfits, rfl, hrest, hkind⟩ := eq_payload_of_apFrameBody h
      obtain ⟨hwf, hencode⟩ := encode_of_apFrameKind hkind
      refine ⟨hwf.trans hfits, hencode.trans ?_⟩
      rw [not_ne_iff.mp hstart, hrest]
      rfl
  · cases h

theorem wellFormed_encode_of_decodeFrameOut {b : Bus} {bytes : List U8} {i : Instr}
    (h : decodeFrameOut b bytes = .ok i) : WellFormed i = true ∧ encode i = ⟨.frameOut b, bytes⟩ := by
  unfold decodeFrameOut at h
  split at h
  · split at h
    · next hcrc => cases h; exact ⟨rfl, by simp [encode, raEncode, hcrc]⟩
    · cases h
  · cases h

/-! ### The two statements -/

/-- Settles O2: each port's decoder is inverted by the encoder. -/
theorem encodeOfDecodeGivesTheRequest : Obligations.EncodeOfDecodeGivesTheRequest := by
  rintro ⟨_ | b | b, bytes⟩ i h
  · cases bytes with
    | nil => cases h
    | cons code rest => exact wellFormed_encode_of_decodeOp h
  · exact wellFormed_encode_of_decodeFrameIn h
  · exact wellFormed_encode_of_decodeFrameOut h

/-- Settles O1: the multi-byte fields and the two-valued operands are read back as they were written, a raw frame and a
payload because they fit. -/
theorem decodeOfEncodeGivesTheInstruction : Obligations.DecodeOfEncodeGivesTheInstruction := by
  intro i hwf
  cases i with
  | crc8 | apEnc | apMkpkt | apMkack | apMknack | sigWait | dspStep | raRead => rfl
  | apDec b | apRst b | rxByte b | rxEof b | rxRd b | rxRel b | rxTake b | dspSvc b => cases b <;> rfl
  | apMkcmd cmd dest ack => cases ack <;> rfl
  | crc16 seed data => exact congrArg (fun v => Except.ok (Instr.crc16 v data)) (half_hiByte_loByte seed)
  | raEnc addr value => exact congrArg (fun v => Except.ok (Instr.raEnc addr v)) (word_wordBytes value)
  | raDec frame => exact if_pos hwf
  | apData b src dst payload crc | apDataAck b src dst payload crc | apCmd b src dst payload crc
  | apCmdAck b src dst payload crc | apAck b src dst payload crc | apNack b src dst payload crc =>
    exact decodeFrameIn_apFrameBytes b src dst _ crc hwf
  | raWrite b addr value crc =>
    exact congrArg (fun v => Except.ok (Instr.raWrite b addr v crc)) (word_wordBytes value)
  | raResp b addr value =>
    exact (if_pos rfl).trans (congrArg (fun v => Except.ok (Instr.raResp b addr v)) (word_wordBytes value))

end Sys2Proof

/-! ## O3 and O7: words written out, and words placed in a state -/

namespace Sys2Proof

/-- Settles O3: every operand of the seven requests is written out, so that the decoder's cases evaluate. -/
theorem spelledOutWordsDecode : Obligations.SpelledOutWordsDecode := ⟨rfl, rfl, rfl, rfl, rfl, rfl, rfl⟩

end Sys2Proof

namespace Sys2Proof.Machine

/-- What a word is placed for may be issued by the agent it is placed for (60_exceptions.md R262). -/
theorem mayIssue_issuerOf (i : Instr) : mayIssue (issuerOf i) i = true := by
  cases i <;> simp [mayIssue, issuerOf]

theorem decodeTableWord_eq_some_iff (nbits w : Nat) (i : Instr) :
    decodeTableWord nbits w = some i ↔ ∃ r, tableRequest nbits w = some r ∧ decode r = .ok i := by
  unfold decodeTableWord
  split
  · simp [*]
  · split <;> simp [*]

theorem withFetchWord_of_tableRequest {nbits w : Nat} {r : Request} {i : Instr} (s : State)
    (hword : tableRequest nbits w = some r) (hdecode : decode r = .ok i) :
    s.withFetchWord nbits w = placeRequest (issuerOf i) r s := by
  simp [State.withFetchWord, placeWord, hword, hdecode]

/-- A placed request is the next move of its agent, which is between two operations. -/
theorem placeRequest_is_next (a : Agent) (r : Request) (s : State) :
    (placeRequest a r s).sched = .agent a :: s.sched ∧ (placeRequest a r s).queue a = r :: s.queue a ∧
      (a = .consumer → (placeRequest a r s).ctl = .ready) := by
  cases a with
  | producer b => cases b <;> exact ⟨rfl, rfl, nofun⟩
  | consumer => exact ⟨rfl, rfl, fun _ => rfl⟩

/-- With the move and the request taken away again, only the consumer's place may have changed. -/
theorem placeRequest_undone (a : Agent) (r : Request) (s : State) :
    ((placeRequest a r s).withSched s.sched).setQueue a (s.queue a) =
      if a = .consumer then s.withCtl .ready else s := by
  cases a with
  | producer b => cases b <;> rfl
  | consumer => rfl

/-- Settles O7: the placed request is decoded and run as O5 says. -/
theorem placedWordIsTheNextStep : Obligations.PlacedWordIsTheNextStep := by
  intro s nbits w i hword
  obtain ⟨r, htable, hdecode⟩ := (decodeTableWord_eq_some_iff nbits w i).mp hword
  obtain ⟨hwf, -⟩ := encodeOfDecodeGivesTheRequest r i hdecode
  obtain ⟨hsched, hqueue, hctl⟩ := placeRequest_is_next (issuerOf i) r s
  rw [withFetchWord_of_tableRequest s htable hdecode, ← placeRequest_undone (issuerOf i) r s]
  exact stepRunsTheDecodedInstruction _ _ r _ _ i hsched hqueue hctl hdecode hwf (mayIssue_issuerOf i)

end Sys2Proof.Machine

/-! ## O58: the Register-Access frame rows -/

namespace Sys2Proof.Machine

/-- On a Register-Access bus a frame on the wire is served by the register path, which never stops (R223). -/
theorem serveWire_ra {b : Bus} {s : State} (bytes : List U8) (h : codecOf s.cfg b = .ra) :
    serveWire b bytes s = .next ((registerPath b bytes s).finish .none) := by
  simp [serveWire, serveFrame, h, toAnswer]

theorem raWriteBytes_eq_raEncode_iff (addr crc : U8) (value : U32) :
    raWriteBytes addr value crc = raEncode addr value ↔ crc8 0#8 (addr :: wordBytes value) = crc := by
  simp [raWriteBytes, raEncode, crc8SeedFrame, eq_comm]

/-- A write request decodes to its operands unless its checksum differs (R171, R172). -/
theorem raDecode_raWriteBytes (addr crc : U8) (value : U32) :
    raDecode (raWriteBytes addr value crc) =
      if crc8 0#8 (addr :: wordBytes value) ≠ crc then .frameError .badCrc else .ok (.write addr value) :=
  (raDecode_six addr _ _ _ _ crc).trans (by rw [word_wordBytes]; rfl)

theorem registerPath_of_frameError {frame : List U8} {k : FrameErrorKind} (b : Bus) (s : State)
    (h : raDecode frame = .frameError k) :
    registerPath b frame s = s.emit (.log (.decodeFailure b (.frameError k))) := by
  simp [registerPath, h]

theorem registerPath_of_read {frame : List U8} {addr : U8} (b : Bus) (s : State)
    (h : raDecode frame = .ok (.read addr)) : registerPath b frame s = serveRead b addr s := by
  simp [registerPath, h]

theorem registerPath_of_write {frame : List U8} {addr : U8} {value : U32} (b : Bus) (s : State)
    (h : raDecode frame = .ok (.write addr value)) : registerPath b frame s = serveWrite b addr value s := by
  simp [registerPath, h]

theorem exec_raRead (b : Bus) (addr crc : U8) (s : State) :
    exec (.raRead b addr crc) s = serveWire b [addr, crc] s := rfl

theorem exec_raWrite (b : Bus) (addr : U8) (value : U32) (crc : U8) (s : State) :
    exec (.raWrite b addr value crc) s = serveWire b (raWriteBytes addr value crc) s := rfl

/-- Settles O58: the checksum says which branch of the register path a request takes. -/
theorem raFrameRowsAreServed : Obligations.RaFrameRowsAreServed := by
  refine ⟨fun s b addr crc hcodec => ⟨fun hbad => ?_, fun hgood => ?_⟩,
    fun s b addr value crc hcodec => ⟨fun hbad => ?_, fun hgood => ?_⟩, fun s b addr value => rfl⟩
  · have hdecode : raDecode [addr, crc] = .frameError .badCrc := by rw [raDecode_two, if_pos hbad.symm]
    rw [exec_raRead, serveWire_ra _ hcodec, registerPath_of_frameError b s hdecode]
  · have hdecode : raDecode [addr, crc] = .ok (.read addr) := by rw [raDecode_two, if_neg (not_not.mpr hgood.symm)]
    obtain ⟨answer, e, hlisted, hserve⟩ := serveRead_spec b addr s
    refine ⟨answer, e, hlisted, ?_⟩
    rw [exec_raRead, serveWire_ra _ hcodec, registerPath_of_read b s hdecode, hserve]
    cases answer <;> rfl
  · have hdecode : raDecode (raWriteBytes addr value crc) = .frameError .badCrc := by
      rw [raDecode_raWriteBytes, if_pos (mt (raWriteBytes_eq_raEncode_iff addr crc value).mpr hbad)]
    rw [exec_raWrite, serveWire_ra _ hcodec, registerPath_of_frameError b s hdecode]
  · have hdecode : raDecode (raWriteBytes addr value crc) = .ok (.write addr value) := by
      rw [raDecode_raWriteBytes, if_neg (not_not.mpr ((raWriteBytes_eq_raEncode_iff addr crc value).mp hgood))]
    obtain ⟨answer, e, hlisted, hserve⟩ := serveWrite_spec b addr value s
    refine ⟨answer, e, hlisted, ?_⟩
    rw [exec_raWrite, serveWire_ra _ hcodec, registerPath_of_write b s hdecode, hserve]
    cases answer <;> rfl

end Sys2Proof.Machine

/-! ## O59: every received frame row completes -/

namespace Sys2Proof.Machine

/-- Serving a frame keeps the decoder of its bus sound, on either codec (R147). -/
theorem serveFrame_keeps_sound {b : Bus} {frame : List U8} {s t : State} (hserve : serveFrame b frame s = .ok t)
    (h : (s.ap b).Sound s.cfg) : (t.ap b).Sound t.cfg := by
  have hcfg : t.cfg = s.cfg := (serveFrame_extendedBy hserve).cfg
  rw [hcfg]
  unfold serveFrame at hserve
  split at hserve
  · cases hserve
    obtain ⟨_, _, _, hpath, -⟩ := registerPath_spec b frame s
    rw [hpath]
    cases b <;> exact h
  · obtain ⟨u, hpath, hu⟩ := packetPath_of_sound frame h
    rw [hpath] at hserve
    cases hserve
    exact hu

/-- Serving a frame of one bus leaves the channels, the parameters and the other bus's decoder (44_dispatch.md R229). -/
theorem serveFrame_frame {b : Bus} {frame : List U8} {s t : State} (hserve : serveFrame b frame s = .ok t) :
    t.rx0 = s.rx0 ∧ t.rx1 = s.rx1 ∧ t.cfg = s.cfg ∧ t.ap (otherBus b) = s.ap (otherBus b) := by
  obtain ⟨d, e, cs, es, rfl, -⟩ := serveFrame_ok b frame s t hserve
  cases b <;> exact ⟨rfl, rfl, rfl, rfl⟩

/-- Each Addressed-Packet row is the service of its frame's bytes, and its TYPE names its row (R84, R144). -/
theorem exec_of_mem_apRows {b : Bus} {src dst : U8} {payload : List U8} {crc : U16} {row : Instr × U8 × PacketType}
    (h : row ∈ apRows b src dst payload crc) (s : State) :
    exec row.1 s = serveWire b (apFrameBytes src dst row.2.1 payload crc) s ∧ typeOf row.2.1 = row.2.2 := by
  simp only [apRows, List.mem_cons, List.not_mem_nil, or_false] at h
  obtain rfl | rfl | rfl | rfl | rfl | rfl := h <;> exact ⟨rfl, rfl⟩

theorem exec_eq_serveWire_of_mem_frameRows {b : Bus} {src dst addr c8 : U8} {payload : List U8} {c16 : U16}
    {value : U32} {i : Instr}
    (h : i ∈ (apRows b src dst payload c16).map Prod.fst ++ [.raRead b addr c8, .raWrite b addr value c8])
    (s : State) : ∃ bytes, exec i s = serveWire b bytes s := by
  simp only [List.mem_append, List.mem_map, List.mem_cons, List.not_mem_nil, or_false] at h
  obtain ⟨row, hrow, rfl⟩ | rfl | rfl := h
  · exact ⟨_, (exec_of_mem_apRows hrow s).1⟩
  · exact ⟨_, exec_raRead b addr c8 s⟩
  · exact ⟨_, exec_raWrite b addr value c8 s⟩

/-- Settles O59: every row is the service of some bytes, and a sound decoder serves any. -/
theorem frameRowsCompleteOnEitherCodec : Obligations.FrameRowsCompleteOnEitherCodec := by
  intro s b src dst addr c8 payload c16 value hsound i hi
  obtain ⟨bytes, hexec⟩ := exec_eq_serveWire_of_mem_frameRows hi s
  obtain ⟨t, hserve⟩ := serveFrame_of_sound bytes hsound
  obtain ⟨hrx0, hrx1, hcfg, hother⟩ := serveFrame_frame hserve
  refine ⟨t.finish .none, by simp [hexec, serveWire, hserve], hrx0, hrx1, hcfg, by simpa using hother, ?_⟩
  simpa using serveFrame_keeps_sound hserve hsound

end Sys2Proof.Machine

/-! ## O57: the Addressed-Packet frame rows

The bytes of a frame row are served one by one (44_dispatch.md R226), while the statement speaks of `AP.DEC` run on
them. The first part follows the two side by side, the second runs the decoder through a whole frame. -/

namespace Sys2Proof.Machine

/-! ### Bytes given to `AP.DEC` -/

theorem feedAp_cons_iff (b : Bus) (byte : U8) (rest : List U8) (s u : State) (os : List ApOutcome) :
    feedAp b (byte :: rest) s = some (os, u) ↔
      codecOf s.cfg b = .ap ∧ ∃ o s1 os', apDecodeByte b byte s = .ok (o, s1) ∧
        feedAp b rest (s1.finish (.ap o)) = some (os', u) ∧ os = o :: os' := by
  constructor
  · intro h
    unfold feedAp at h
    split at h
    · next t hexec =>
      obtain ⟨hcodec, o, s1, hbyte, rfl⟩ := (execApDec_next_iff b byte s t).mp hexec
      split at h
      · next o' os' u' hresult hrest =>
        cases hresult
        cases h
        exact ⟨hcodec, o, s1, os', hbyte, hrest, rfl⟩
      · cases h
    · cases h
    · cases h
  · rintro ⟨hcodec, o, s1, os', hbyte, hrest, rfl⟩
    have hexec : exec (.apDec b byte) s = .next (s1.finish (.ap o)) :=
      (execApDec_next_iff b byte s _).mpr ⟨hcodec, o, s1, hbyte, rfl⟩
    simp [feedAp, hexec, hrest]

theorem feedAp_append {b : Bus} {xs ys : List U8} {s t u : State} {os os' : List ApOutcome}
    (hxs : feedAp b xs s = some (os, t)) (hys : feedAp b ys t = some (os', u)) :
    feedAp b (xs ++ ys) s = some (os ++ os', u) := by
  induction xs generalizing s os with
  | nil => cases hxs; exact hys
  | cons byte rest ih =>
    obtain ⟨hcodec, o, s1, os1, hbyte, hrest, rfl⟩ := (feedAp_cons_iff b byte rest s t os).mp hxs
    exact (feedAp_cons_iff b byte _ s u _).mpr ⟨hcodec, o, s1, os1 ++ os', hbyte, ih hrest, rfl⟩

/-- A sound decoder takes any bytes (41_addressed_packet.md R147). -/
theorem feedAp_of_sound {b : Bus} (bytes : List U8) {s : State} (hcodec : codecOf s.cfg b = .ap)
    (h : (s.ap b).Sound s.cfg) : ∃ os u, feedAp b bytes s = some (os, u) := by
  induction bytes generalizing s with
  | nil => exact ⟨[], s, rfl⟩
  | cons byte rest ih =>
    obtain ⟨o, s1, hbyte, hsound⟩ := apDecodeByte_of_sound byte h
    have hcfg : s1.cfg = s.cfg := (apDecodeByte_extendedBy hbyte).cfg
    obtain ⟨os, u, hrest⟩ := ih (s := s1.finish (.ap o)) (by simpa [hcfg] using hcodec) (by simpa [hcfg] using hsound)
    exact ⟨o :: os, u, (feedAp_cons_iff b byte rest s u _).mpr ⟨hcodec, o, s1, os, hbyte, hrest, rfl⟩⟩

/-! ### The outcomes acted on (44_dispatch.md R226) -/

/-- `t` is `s` with the outcomes `os` of bus `b` acted on and its decoder at `d`. Unlike `ServesOutcomes` it leaves the
last result, and says that without a register call nothing is drawn, so that it can be put together byte by byte. -/
def State.ActsOn (s : State) (b : Bus) (os : List ApOutcome) (d : ApDec) (t : State) : Prop :=
  ∃ (calls : List RegCall) (e : Env),
    calls.map RegCall.op = os.filterMap (outcomeRegop s.cfg) ∧ CallsDrawnFrom calls s.env e ∧ (calls = [] → e = s.env) ∧
    t = { s.setAp b d with env := e, calls := s.calls ++ calls, events := s.events ++ packetEvents s.cfg b os calls }

theorem State.ActsOn.servesOutcomes {s t : State} {b : Bus} {os : List ApOutcome} {d : ApDec} (h : s.ActsOn b os d t) :
    s.ServesOutcomes b os d (t.finish .none) := by
  obtain ⟨calls, e, hops, hdrawn, -, rfl⟩ := h
  exact ⟨calls, e, hops, hdrawn, rfl⟩

theorem State.ActsOn.nil (s : State) (b : Bus) : s.ActsOn b [] (s.ap b) s :=
  ⟨[], s.env, rfl, callsDrawnFrom_nil _, fun _ => rfl, by simp [packetEvents]⟩

/-- One outcome acted on, and then the others. -/
theorem State.ActsOn.cons {s t : State} {b : Bus} {o : ApOutcome} {os : List ApOutcome} {d d' : ApDec}
    (h : (actOnOutcome b o (s.setAp b d)).ActsOn b os d' t) : s.ActsOn b (o :: os) d' t := by
  obtain ⟨cs, e, hact, hop, hdrawn, hnone⟩ := actOnOutcome_events b o (s.setAp b d)
  rw [hact] at h
  obtain ⟨cs', e', hops', hdrawn', hnone', rfl⟩ := h
  simp only [setAp_cfg, setAp_env] at hop hdrawn hnone hops' hdrawn' hnone'
  refine ⟨cs ++ cs', e', ?_, callsDrawnFrom_append hdrawn hdrawn', ?_, ?_⟩
  · rw [List.map_append, hop, hops', ← List.filterMap_append, List.singleton_append]
  · intro hcs
    obtain ⟨rfl, rfl⟩ := List.append_eq_nil_iff.mp hcs
    exact (hnone' rfl).trans (hnone rfl)
  · rw [packetEvents_cons s.cfg b o os cs cs' hop]
    cases b <;> simp [State.setAp]

/-- The packet path gives its bytes to the decoder and acts on every outcome; it reads the same decoder as `AP.DEC` run
on the bytes alone, whatever else differs in the state. -/
theorem packetPath_actsOn {b : Bus} {bytes : List U8} {os : List ApOutcome} {s s' u : State} (hcfg : s'.cfg = s.cfg)
    (hap : s'.ap b = s.ap b) (hfeed : feedAp b bytes s = some (os, u)) :
    ∃ t, packetPath b bytes s' = .ok t ∧ s'.ActsOn b os (u.ap b) t := by
  induction bytes generalizing s s' os with
  | nil =>
    cases hfeed
    rw [← hap]
    exact ⟨s', rfl, .nil s' b⟩
  | cons byte rest ih =>
    obtain ⟨-, o, s1, os', hbyte, hrest, rfl⟩ := (feedAp_cons_iff b byte rest s u os).mp hfeed
    have hbyte' := apDecodeByte_congr b byte s s' s1 o hcfg hap hbyte
    obtain ⟨hap1, hcfg1⟩ := actOnOutcome_ap_cfg b o (s'.setAp b (s1.ap b)) b
    obtain ⟨t, hpath, ht⟩ := ih (s' := actOnOutcome b o (s'.setAp b (s1.ap b)))
      (by rw [hcfg1, setAp_cfg, hcfg, finish_cfg, (apDecodeByte_extendedBy hbyte).cfg])
      (by rw [hap1, ap_setAp, finish_ap]) hrest
    exact ⟨t, by simp only [packetPath, hbyte', hpath], .cons ht⟩

/-- On an Addressed-Packet bus a frame on the wire is served as `AP.DEC` decodes its bytes. -/
theorem serveWire_actsOn {b : Bus} {bytes : List U8} {os : List ApOutcome} {s u : State}
    (hcodec : codecOf s.cfg b = .ap) (hfeed : feedAp b bytes s = some (os, u)) :
    ∃ t, serveWire b bytes s = .next (t.finish .none) ∧ s.ActsOn b os (u.ap b) t := by
  obtain ⟨t, hpath, ht⟩ := packetPath_actsOn rfl rfl hfeed
  exact ⟨t, by simp [serveWire, serveFrame, hcodec, hpath, toAnswer], ht⟩

theorem packetEvents_replicate_notReady (p : Params) (b : Bus) (n : Nat) (os : List ApOutcome) (calls : List RegCall) :
    packetEvents p b (List.replicate n .notReady ++ os) calls = packetEvents p b os calls := by
  induction n with
  | zero => rfl
  | succ n ih => exact ih

theorem outcomeRegop_replicate_notReady (p : Params) (n : Nat) (os : List ApOutcome) :
    (List.replicate n ApOutcome.notReady ++ os).filterMap (outcomeRegop p) = os.filterMap (outcomeRegop p) := by
  induction n with
  | zero => rfl
  | succ n ih => exact ih

/-- A packet that `AP_REGOP` maps to nothing is reported, and nothing else comes of the bytes before it. -/
theorem State.ActsOn.packetReady {s t : State} {b : Bus} {n : Nat} {packet : Packet} {d : ApDec}
    (h : s.ActsOn b (List.replicate n .notReady ++ [.ready packet]) d t) (hregop : s.cfg.apRegop.lookup packet = none) :
    t = (s.setAp b d).emit (.packetReady b packet) := by
  obtain ⟨calls, e, hops, -, hnone, rfl⟩ := h
  rw [outcomeRegop_replicate_notReady] at hops
  obtain rfl : calls = [] := by simpa [outcomeRegop, hregop] using hops
  rw [packetEvents_replicate_notReady, hnone rfl]
  cases b <;> simp [packetEvents, hregop, State.emit, State.setAp]

/-! ### A whole frame (41_addressed_packet.md R133 to R141) -/

/-- A store with `bytes` written in a row from index `i` on. -/
def Memory.writeFrom : Memory → Nat → List U8 → Memory
  | m, _, [] => m
  | m, i, byte :: rest => (m.write i byte).writeFrom (i + 1) rest

theorem read_writeFrom_below (m : Memory) (bytes : List U8) {i j : Nat} (h : j < i) :
    (m.writeFrom i bytes).read j = m.read j := by
  induction bytes generalizing m i with
  | nil => rfl
  | cons byte rest ih =>
    rw [Memory.writeFrom, ih _ (by omega)]
    exact read_write_other m i j byte (by omega)

theorem read_writeFrom (m : Memory) (bytes : List U8) (i : Nat) {j : Nat} (h : j < bytes.length) :
    (m.writeFrom i bytes).read (i + j) = bytes[j]? := by
  induction bytes generalizing m i j with
  | nil => simp at h
  | cons byte rest ih =>
    cases j with
    | zero => rw [Memory.writeFrom, read_writeFrom_below _ _ (by omega)]; exact read_write_same m i byte
    | succ j =>
      rw [Memory.writeFrom, show i + (j + 1) = i + 1 + j by omega, List.getElem?_cons_succ]
      exact ih _ _ (by simpa using h)

/-- A decoder that has taken the header of a frame. -/
def ApDec.withHeader (d : ApDec) (p : Params) (src dst len typ : U8) : ApDec :=
  { d with src := src, dst := dst, len := len, typ := typ, pos := 5#8, dstBad := decide (dst ≠ p.nodeAddr) }

/-- A decoder that has taken all of a frame but its last byte. -/
def ApDec.beforeLast (d : ApDec) (p : Params) (src dst typ : U8) (payload : List U8) (crc : U16) : ApDec :=
  { d.withHeader p src dst (BitVec.ofNat 8 payload.length) typ with
    payload := d.payload.writeFrom 0 payload, crcRx := half (hiByte crc) 0#8
    pos := 5#8 + BitVec.ofNat 8 payload.length + 1#8 }

/-- The outcome a whole frame ends with (R145). -/
def frameOutcome (p : Params) (src dst typ : U8) (payload : List U8) (crc : U16) : ApOutcome :=
  if frameCrc16 p src dst typ payload ≠ crc then .invalid
  else if dst ≠ p.nodeAddr then .wrongAddress
  else .ready ⟨src, dst, BitVec.ofNat 8 payload.length, typ, payload, crc⟩

/-- `AP.DEC` answers NOT_READY to each of `bytes`, and they take the decoder of bus `b` from `d` to `d'`. -/
def Takes (b : Bus) (p : Params) (bytes : List U8) (d d' : ApDec) : Prop :=
  ∀ s : State, s.cfg = p → s.ap b = d →
    ∃ u, feedAp b bytes s = some (List.replicate bytes.length .notReady, u) ∧ u.cfg = p ∧ u.ap b = d'

/-! #### The arms of the decoder by their positions (R131) -/

theorem apDecodeByte_of_payload {b : Bus} {s : State} (byte : U8) (hlow : 5 ≤ (s.ap b).pos.toNat)
    (hhigh : (s.ap b).pos.toNat ≤ 4 + (s.ap b).len.toNat) : apDecodeByte b byte s = armPayload b byte s := by
  grind [apDecodeByte]

theorem apDecodeByte_of_crcHigh {b : Bus} {s : State} (byte : U8) (h : (s.ap b).pos.toNat = 5 + (s.ap b).len.toNat) :
    apDecodeByte b byte s = .ok (armCrcHigh b byte s) := by
  grind [apDecodeByte]

theorem apDecodeByte_of_crcLow {b : Bus} {s : State} (byte : U8) (h : (s.ap b).pos.toNat = 6 + (s.ap b).len.toNat) :
    apDecodeByte b byte s = armCrcLow b byte s := by
  grind [apDecodeByte]

/-! #### Bytes the decoder takes with NOT_READY -/

section Takes

variable {b : Bus} {p : Params}

theorem Takes.nil (d : ApDec) : Takes b p [] d d := fun s hcfg hap => ⟨s, rfl, hcfg, hap⟩

theorem Takes.append {xs ys : List U8} {d d' d'' : ApDec} (hxs : Takes b p xs d d') (hys : Takes b p ys d' d'') :
    Takes b p (xs ++ ys) d d'' := by
  intro s hcfg hap
  obtain ⟨t, hfeed, htcfg, htap⟩ := hxs s hcfg hap
  obtain ⟨u, hfeed', hu⟩ := hys t htcfg htap
  refine ⟨u, ?_, hu⟩
  rw [List.length_append, List.replicate_add]
  exact feedAp_append hfeed hfeed'

/-- One byte, by the arm of the decoder it comes to. -/
theorem Takes.of_byte {byte : U8} {d d' : ApDec} (hcodec : codecOf p b = .ap)
    (h : ∀ s : State, s.cfg = p → s.ap b = d → apDecodeByte b byte s = .ok (.notReady, s.setAp b d')) :
    Takes b p [byte] d d' := by
  intro s hcfg hap
  refine ⟨(s.setAp b d').finish (.ap .notReady), ?_, by simpa using hcfg, by simp⟩
  exact (feedAp_cons_iff b byte [] s _ _).mpr ⟨hcfg ▸ hcodec, _, _, [], h s hcfg hap, rfl, rfl⟩

variable (hcodec : codecOf p b = .ap)
include hcodec

theorem takes_start {d : ApDec} (hpos : d.pos = 0#8) :
    Takes b p [apSof] d { d with pos := 1#8, dstBad := false } := by
  refine .of_byte hcodec fun s _ hap => ?_
  subst hap
  simp [apDecodeByte, hpos, armStart]

theorem takes_src {d : ApDec} (src : U8) (hpos : d.pos = 1#8) :
    Takes b p [src] d { d with src := src, pos := 2#8 } := by
  refine .of_byte hcodec fun s _ hap => ?_
  subst hap
  simp [apDecodeByte, hpos, armSrc]

/-- The destination byte is taken in `CONSUME` mode, and in `IMMEDIATE` mode where it is this node's (R135, R136). -/
theorem takes_dst {d : ApDec} {dst : U8} (hpos : d.pos = 2#8) (hbad : d.dstBad = false)
    (hmode : p.wrongAddrMode = .consume ∨ dst = p.nodeAddr) :
    Takes b p [dst] d { d with dst := dst, pos := 3#8, dstBad := decide (dst ≠ p.nodeAddr) } := by
  refine .of_byte hcodec fun s hcfg hap => ?_
  subst hcfg hap
  cases hm : s.cfg.wrongAddrMode with
  | consume =>
    by_cases hdst : dst = s.cfg.nodeAddr <;>
      simp [apDecodeByte, hpos, armDst, hm, armDstConsume, dstBadAfter, hdst, hbad]
  | immediate =>
    have hdst : dst = s.cfg.nodeAddr := hmode.resolve_left (by simp [hm])
    simp [apDecodeByte, hpos, armDst, hm, armDstImmediate, hdst, hbad]

theorem takes_len {d : ApDec} {len : U8} (hpos : d.pos = 3#8) (hlen : len.toNat ≤ 248) :
    Takes b p [len] d { d with len := len, pos := 4#8 } := by
  refine .of_byte hcodec fun s _ hap => ?_
  subst hap
  simp [apDecodeByte, hpos, armLen, apMaxPayload, hlen]

theorem takes_typ {d : ApDec} (typ : U8) (hpos : d.pos = 4#8) :
    Takes b p [typ] d { d with typ := typ, pos := 5#8 } := by
  refine .of_byte hcodec fun s _ hap => ?_
  subst hap
  simp [apDecodeByte, hpos, armType]

theorem takes_payloadByte {d : ApDec} (byte : U8) (hlow : 5 ≤ d.pos.toNat) (hhigh : d.pos.toNat ≤ 4 + d.len.toNat)
    (hlen : d.len.toNat ≤ 248) :
    Takes b p [byte] d { d with payload := d.payload.write (d.pos.toNat - 5) byte, pos := d.pos + 1#8 } := by
  refine .of_byte hcodec fun s _ hap => ?_
  subst hap
  rw [apDecodeByte_of_payload byte hlow hhigh]
  exact (armPayload_ok_iff b byte s _ .notReady).mpr ⟨by omega, rfl, rfl⟩

theorem takes_crcHigh {d : ApDec} (hi : U8) (hpos : d.pos.toNat = 5 + d.len.toNat) :
    Takes b p [hi] d { d with crcRx := half hi 0#8, pos := d.pos + 1#8 } := by
  refine .of_byte hcodec fun s _ hap => ?_
  subst hap
  rw [apDecodeByte_of_crcHigh hi hpos, armCrcHigh]

/-- The header is taken and kept in the registers of the decoder (R133 to R138). -/
theorem takes_header {d : ApDec} (src typ : U8) {dst len : U8} (hpos : d.pos = 0#8) (hlen : len.toNat ≤ 248)
    (hmode : p.wrongAddrMode = .consume ∨ dst = p.nodeAddr) :
    Takes b p [apSof, src, dst, len, typ] d (d.withHeader p src dst len typ) :=
  (takes_start hcodec hpos).append <| (takes_src hcodec src rfl).append <| (takes_dst hcodec rfl rfl hmode).append <|
    (takes_len hcodec rfl hlen).append (takes_typ hcodec typ rfl)

/-- Payload bytes are stored in a row from the cursor's index on, and leave the cursor behind the last (R139). -/
theorem takes_payload {d : ApDec} (payload : List U8) (hlow : 5 ≤ d.pos.toNat)
    (hhigh : d.pos.toNat + payload.length ≤ 5 + d.len.toNat) (hlen : d.len.toNat ≤ 248) :
    Takes b p payload d { d with
      payload := d.payload.writeFrom (d.pos.toNat - 5) payload, pos := d.pos + BitVec.ofNat 8 payload.length } := by
  induction payload generalizing d with
  | nil => simpa [Memory.writeFrom] using Takes.nil d
  | cons byte rest ih =>
    rw [List.length_cons] at hhigh ⊢
    have hnext : (d.pos + 1#8).toNat = d.pos.toNat + 1 := by bv_omega
    have hbyte := takes_payloadByte hcodec byte hlow (by omega) hlen
    have hrest := ih (d := { d with payload := d.payload.write (d.pos.toNat - 5) byte, pos := d.pos + 1#8 })
      (by simp only [hnext]; omega) (by simp only [hnext]; omega) hlen
    have hindex : (d.pos + 1#8).toNat - 5 = d.pos.toNat - 5 + 1 := by omega
    have hpos : d.pos + 1#8 + BitVec.ofNat 8 rest.length = d.pos + BitVec.ofNat 8 (rest.length + 1) := by
      rw [BitVec.add_assoc, Nat.add_comm, BitVec.ofNat_add]
    simpa only [hindex, hpos, Memory.writeFrom, List.singleton_append] using hbyte.append hrest

/-- Every byte of a frame but the last is taken (R145). -/
theorem takes_allButLast {d : ApDec} (src typ : U8) {dst : U8} {payload : List U8} (crc : U16) (hpos : d.pos = 0#8)
    (hlen : payload.length ≤ 248) (hmode : p.wrongAddrMode = .consume ∨ dst = p.nodeAddr) :
    Takes b p ([apSof, src, dst, BitVec.ofNat 8 payload.length, typ] ++ payload ++ [hiByte crc]) d
      (d.beforeLast p src dst typ payload crc) := by
  have hlen' := toNat_length_of_fits hlen
  have hcursor : (5#8 + BitVec.ofNat 8 payload.length).toNat = 5 + payload.length := by bv_omega
  have hheader := takes_header hcodec src typ (len := BitVec.ofNat 8 payload.length) hpos (by omega) hmode
  have hpayload := takes_payload hcodec (d := d.withHeader p src dst (BitVec.ofNat 8 payload.length) typ) payload
    (Nat.le_refl 5) (by simp [ApDec.withHeader, hlen']) (by simp [ApDec.withHeader, hlen', hlen])
  refine (hheader.append hpayload).append (takes_crcHigh hcodec (hiByte crc) ?_)
  simp [ApDec.withHeader, hlen', hcursor]

end Takes

theorem endOutcome_beforeLast (p : Params) (d : ApDec) (src dst typ : U8) (payload : List U8) (crc : U16) :
    endOutcome p (d.beforeLast p src dst typ payload crc) (loByte crc) payload =
      frameOutcome p src dst typ payload crc := by
  simp [endOutcome, frameOutcome, ApDec.beforeLast, ApDec.withHeader, packetOf, frameCrc16, crc16SeedFrame]

/-- The last byte of a frame compares the checksum and the destination, and resets the cursor (R141). -/
theorem apDecodeByte_last {b : Bus} {s : State} {d : ApDec} {src dst typ : U8} {payload : List U8} {crc : U16}
    (hlen : payload.length ≤ 248) (hap : s.ap b = d.beforeLast s.cfg src dst typ payload crc) :
    ∃ t, apDecodeByte b (loByte crc) s = .ok (frameOutcome s.cfg src dst typ payload crc, t) ∧ (t.ap b).pos = 0#8 := by
  have hlen' : (s.ap b).len.toNat = payload.length := by
    rw [hap]; exact toNat_length_of_fits hlen
  have hpos : (s.ap b).pos.toNat = 6 + payload.length := by
    rw [hap, ApDec.beforeLast]; bv_omega
  have hread : s.readBytes (.payload b) 0 (s.ap b).len.toNat = .ok payload := by
    rw [hlen']
    refine readBytes_eq s _ payload 0 (by simpa [storeSize, apMaxPayload] using hlen) fun j hj => ?_
    rw [State.store, hap]
    exact read_writeFrom d.payload payload 0 hj
  rw [← endOutcome_beforeLast s.cfg d, ← hap, apDecodeByte_of_crcLow _ (by omega)]
  exact ⟨_, (armCrcLow_ok_iff b (loByte crc) s _ _).mpr ⟨payload, hread, rfl, rfl⟩, by rw [ap_setAp]⟩

/-- A whole frame given to a decoder at AWAIT_START: NOT_READY but for its last byte, which gives the outcome of the
frame and leaves the decoder at AWAIT_START (R145). -/
theorem feedAp_apFrameBytes {b : Bus} {s : State} (src typ : U8) {dst : U8} {payload : List U8} (crc : U16)
    (hcodec : codecOf s.cfg b = .ap) (hpos : (s.ap b).pos = 0#8) (hlen : payload.length ≤ 248)
    (hmode : s.cfg.wrongAddrMode = .consume ∨ dst = s.cfg.nodeAddr) :
    ∃ u, feedAp b (apFrameBytes src dst typ payload crc) s =
        some (List.replicate (6 + payload.length) .notReady ++ [frameOutcome s.cfg src dst typ payload crc], u) ∧
      (u.ap b).pos = 0#8 := by
  obtain ⟨t, hfeed, hcfg, hap⟩ := takes_allButLast hcodec src typ crc hpos hlen hmode s rfl rfl
  rw [← hcfg] at hap hcodec
  obtain ⟨u, hlast, hu⟩ := apDecodeByte_last hlen hap
  rw [hcfg] at hlast
  have hlast' := (feedAp_cons_iff b (loByte crc) [] t _ _).mpr ⟨hcodec, _, u, [], hlast, rfl, rfl⟩
  have hbytes : apFrameBytes src dst typ payload crc =
      [apSof, src, dst, BitVec.ofNat 8 payload.length, typ] ++ payload ++ [hiByte crc] ++ [loByte crc] := by
    simp [apFrameBytes]
  have hcount : ([apSof, src, dst, BitVec.ofNat 8 payload.length, typ] ++ payload ++ [hiByte crc]).length =
      6 + payload.length := by
    simp only [List.length_append, List.length_cons, List.length_nil]; omega
  rw [hcount] at hfeed
  rw [hbytes]
  exact ⟨_, feedAp_append hfeed hlast', by rwa [finish_ap]⟩

/-- Settles O57: a whole frame for this node ends in READY, and any bytes end in the outcomes of `AP.DEC`. -/
theorem apFrameRowsReportTheirPacket : Obligations.ApFrameRowsReportTheirPacket := by
  refine ⟨fun s b src payload crc hcodec hpos hlen row hrow hcrc => ?_,
    fun s b src dst payload crc hcodec hsound row hrow => ?_⟩
  · obtain ⟨hexec, htype⟩ := exec_of_mem_apRows hrow s
    obtain ⟨u, hfeed, hu⟩ := feedAp_apFrameBytes src row.2.1 crc hcodec hpos hlen (.inr rfl)
    obtain ⟨t, hserve, hacts⟩ := serveWire_actsOn hcodec hfeed
    refine ⟨u.ap b, hu, htype, fun hregop => ?_⟩
    rw [frameOutcome, if_neg (not_not.mpr hcrc.symm), if_neg (not_not.mpr rfl)] at hacts
    rw [hexec, hserve, hacts.packetReady hregop]
  · obtain ⟨hexec, -⟩ := exec_of_mem_apRows hrow s
    obtain ⟨os, u, hfeed⟩ := feedAp_of_sound (apFrameBytes src dst row.2.1 payload crc) hcodec hsound
    obtain ⟨t, hserve, hacts⟩ := serveWire_actsOn hcodec hfeed
    exact ⟨os, u, _, hfeed, hexec.trans hserve, hacts.servesOutcomes⟩

end Sys2Proof.Machine

/-! ## O16 to O21: the two CRC engines

The three byte steps are one construction: place the byte in the register, then shift eight bits out. The shift towards
the most significant bit is treated once for every width and polynomial; the reflected CRC-16 (40_crc.md R111) is
reached from it by bit reversal. -/

namespace Sys2Proof.Machine

/-! ### Linear maps over exclusive-or

R120 rests on two facts about each part of a byte step: it is linear, and it sends nothing but zero to zero. -/

/-- `f` is linear over exclusive-or and loses nothing. -/
structure XorEmbedding {v w : Nat} (f : BitVec v → BitVec w) : Prop where
  map_xor : ∀ x y, f (x ^^^ y) = f x ^^^ f y
  eq_zero : ∀ x, f x = 0#w → x = 0#v

namespace XorEmbedding

variable {u v w : Nat} {f : BitVec v → BitVec w}

theorem map_zero (hf : XorEmbedding f) : f 0#v = 0#w := by
  have h := hf.map_xor 0#v 0#v
  rwa [BitVec.xor_self, BitVec.xor_self] at h

theorem comp {g : BitVec u → BitVec v} (hf : XorEmbedding f) (hg : XorEmbedding g) : XorEmbedding (f ∘ g) where
  map_xor x y := by simp only [Function.comp, hg.map_xor, hf.map_xor]
  eq_zero x h := hg.eq_zero x (hf.eq_zero _ h)

theorem eightTimes {f : BitVec w → BitVec w} (hf : XorEmbedding f) : XorEmbedding (eightTimes f) :=
  have twice := hf.comp hf
  have fourTimes := twice.comp twice
  fourTimes.comp fourTimes

end XorEmbedding

theorem reverse_xor {w : Nat} (x y : BitVec w) : (x ^^^ y).reverse = x.reverse ^^^ y.reverse := by
  ext i hi
  simp only [BitVec.getElem_reverse, BitVec.getElem_xor, BitVec.getMsbD_xor]

theorem reverse_shiftLeft {w : Nat} (x : BitVec w) (n : Nat) : (x <<< n).reverse = x.reverse >>> n := by
  ext i hi
  simp only [BitVec.getElem_reverse, BitVec.getElem_ushiftRight, BitVec.getLsbD_reverse, BitVec.getMsbD_shiftLeft,
    Nat.add_comm]

/-! ### One bit shifted out -/

/-- One shift towards the most significant bit, with the polynomial added when that bit was set (R113, R116). -/
def msbFirstBit {w : Nat} (poly c : BitVec w) : BitVec w := if c.msb then (c <<< 1) ^^^ poly else c <<< 1

theorem crc16BitMsb_eq : crc16BitMsb = msbFirstBit 0x1021#16 := rfl

theorem crc8Bit_eq : crc8Bit = msbFirstBit 0x07#8 := rfl

/-- One shift to the right of the reversed value is the reversed shift to the left, 0x8408 being 0x1021 reversed
(R111). -/
theorem crc16Bit_reverse (c : U16) : crc16Bit c.reverse = (crc16BitMsb c).reverse := by
  have hpoly : (0x1021#16).reverse = 0x8408#16 := by decide
  have hbit : c.reverse.getLsbD 0 = c.getLsbD 15 := BitVec.getLsbD_reverse
  unfold crc16Bit crc16BitMsb
  rw [hbit]
  split
  · rw [reverse_xor, reverse_shiftLeft, hpoly]
  · rw [reverse_shiftLeft]

section OneBit

variable {w : Nat} {poly : BitVec w}

theorem msbFirstBit_of_msb_false {c : BitVec w} (h : c.msb = false) : msbFirstBit poly c = c <<< 1 :=
  if_neg (by simp [h])

theorem msbFirstBit_eq_xor (c : BitVec w) : msbFirstBit poly c = (c <<< 1) ^^^ (if c.msb then poly else 0#w) := by
  unfold msbFirstBit
  split
  · rfl
  · rw [BitVec.xor_zero]

theorem msbFirstBit_xor (c d : BitVec w) :
    msbFirstBit poly (c ^^^ d) = msbFirstBit poly c ^^^ msbFirstBit poly d := by
  have hpoly : (if (c ^^^ d).msb then poly else 0#w) =
      (if c.msb then poly else 0#w) ^^^ (if d.msb then poly else 0#w) := by
    rw [BitVec.msb_xor]
    cases c.msb <;> cases d.msb <;> simp
  rw [msbFirstBit_eq_xor, msbFirstBit_eq_xor, msbFirstBit_eq_xor, hpoly, BitVec.shiftLeft_xor_distrib]
  ac_rfl

/-- A polynomial with a constant term leaves its bit 0 where the shift left none, so no set bit is lost (R120). -/
theorem eq_zero_of_msbFirstBit_eq_zero (hodd : poly.getLsbD 0 = true) {c : BitVec w} (h : msbFirstBit poly c = 0#w) :
    c = 0#w := by
  have hmsb : c.msb = false := by
    have hzero := congrArg (·.getLsbD 0) h
    simpa [msbFirstBit_eq_xor, apply_ite (BitVec.getLsbD · 0), hodd] using hzero
  rw [msbFirstBit_of_msb_false hmsb] at h
  refine BitVec.eq_of_getMsbD_eq fun i _ => ?_
  rw [BitVec.getMsbD_zero]
  cases i with
  | zero => exact hmsb
  | succ i => rw [← BitVec.getMsbD_shiftLeft, h, BitVec.getMsbD_zero]

theorem xorEmbedding_msbFirstBit (hodd : poly.getLsbD 0 = true) : XorEmbedding (msbFirstBit poly) :=
  ⟨msbFirstBit_xor, fun _ => eq_zero_of_msbFirstBit_eq_zero hodd⟩

theorem xorEmbedding_crc16BitMsb : XorEmbedding crc16BitMsb := crc16BitMsb_eq ▸ xorEmbedding_msbFirstBit rfl

theorem xorEmbedding_crc8Bit : XorEmbedding crc8Bit := crc8Bit_eq ▸ xorEmbedding_msbFirstBit rfl

/-- While the bits shifted out are clear the polynomial is not added. -/
theorem iterate_msbFirstBit {c : BitVec w} (n : Nat) (h : ∀ i < n, c.getMsbD i = false) :
    (msbFirstBit poly)^[n] c = c <<< n := by
  induction n with
  | zero => simp
  | succ n ih =>
    have hmsb : (c <<< n).msb = false := by rw [BitVec.msb_shiftLeft, h n n.lt_succ_self]
    rw [Function.iterate_succ_apply', ih fun i hi => h i (Nat.lt_succ_of_lt hi), msbFirstBit_of_msb_false hmsb,
      BitVec.shiftLeft_add]

end OneBit

/-! ### The byte placed in the register -/

/-- The byte in the upper half of a 16-bit register (R113). -/
def placeHigh (b : U8) : U16 := b.setWidth 16 <<< 8

theorem crc16StepMsb_eq (c : U16) (b : U8) : crc16StepMsb c b = eightTimes crc16BitMsb (c ^^^ placeHigh b) := rfl

theorem getMsbD_hiByte (c : U16) {i : Nat} (hi : i < 8) : (hiByte c).getMsbD i = c.getMsbD i := by
  have hindex : 8 + (8 - 1 - i) = 16 - 1 - i ∧ 8 - 1 - i < 8 ∧ i < 16 := by omega
  simp only [hiByte, BitVec.getMsbD_eq_getLsbD, BitVec.getLsbD_extractLsb', hindex, hi, decide_true, Bool.true_and]

@[simp] theorem hiByte_placeHigh (b : U8) : hiByte (placeHigh b) = b := by
  refine BitVec.eq_of_getMsbD_eq fun i hi => ?_
  rw [getMsbD_hiByte _ hi]
  simp [placeHigh, BitVec.getMsbD_setWidth]

theorem hiByte_xor (c d : U16) : hiByte (c ^^^ d) = hiByte c ^^^ hiByte d := BitVec.extractLsb'_xor

theorem placeHigh_xor (a b : U8) : placeHigh (a ^^^ b) = placeHigh a ^^^ placeHigh b := by
  unfold placeHigh
  rw [BitVec.setWidth_xor, BitVec.shiftLeft_xor_distrib]

theorem xorEmbedding_placeHigh : XorEmbedding placeHigh :=
  ⟨placeHigh_xor, fun b h => by rw [← hiByte_placeHigh b, h]; rfl⟩

/-- A byte in the upper half is shifted out of the register whole. -/
theorem placeHigh_shiftLeft (b : U8) : placeHigh b <<< 8 = 0#16 := by
  rw [placeHigh, ← BitVec.shiftLeft_add]
  exact BitVec.shiftLeft_eq_zero (Nat.le_refl 16)

theorem reverse_placeHigh (b : U8) : (placeHigh b).reverse = b.reverse.setWidth 16 := by
  refine BitVec.eq_of_getMsbD_eq fun i hi => ?_
  rw [BitVec.getMsbD_reverse, placeHigh, BitVec.getLsbD_shiftLeft, BitVec.getLsbD_setWidth, BitVec.getMsbD_setWidth,
    Nat.add_sub_add_right i 8 8, BitVec.getMsbD_reverse]
  by_cases hlow : i < 8
  · simp [hlow]
  · have hin : i - 8 < 16 ∧ 8 ≤ i := by omega
    simp [hi, hlow, hin]

theorem hiByte_reverse (c : U16) : hiByte c.reverse = (loByte c).reverse := by
  refine BitVec.eq_of_getMsbD_eq fun i hi => ?_
  rw [getMsbD_hiByte _ hi, BitVec.getMsbD_reverse, BitVec.getMsbD_reverse, loByte, BitVec.getLsbD_extractLsb']
  simp [hi]

/-! ### The byte steps -/

/-- A byte step is linear in the register and the byte together, and loses neither (R120). -/
structure LinearStep {w : Nat} (step : BitVec w → U8 → BitVec w) : Prop where
  map_xor : ∀ c d a b, step (c ^^^ d) (a ^^^ b) = step c a ^^^ step d b
  register_eq_zero : ∀ c, step c 0#8 = 0#w → c = 0#w
  byte_eq_zero : ∀ b, step 0#w b = 0#w → b = 0#8

/-- A step that places the byte and then shifts is linear when both its parts are. -/
theorem LinearStep.of_parts {w : Nat} {step : BitVec w → U8 → BitVec w} {shift : BitVec w → BitVec w}
    {place : U8 → BitVec w} (hshift : XorEmbedding shift) (hplace : XorEmbedding place)
    (hstep : ∀ c b, step c b = shift (c ^^^ place b)) : LinearStep step where
  map_xor c d a b := by
    rw [hstep, hstep, hstep, ← hshift.map_xor, hplace.map_xor]
    congr 1
    ac_rfl
  register_eq_zero c h := by
    rw [hstep, hplace.map_zero, BitVec.xor_zero] at h
    exact hshift.eq_zero c h
  byte_eq_zero b h := by
    rw [hstep, BitVec.zero_xor] at h
    exact hplace.eq_zero b (hshift.eq_zero _ h)

theorem linearStep_crc16StepMsb : LinearStep crc16StepMsb :=
  .of_parts xorEmbedding_crc16BitMsb.eightTimes xorEmbedding_placeHigh fun _ _ => rfl

theorem linearStep_crc8Step : LinearStep crc8Step :=
  .of_parts xorEmbedding_crc8Bit.eightTimes (place := id) ⟨fun _ _ => rfl, fun _ h => h⟩ fun _ _ => rfl

/-- Settles O18: reversal carries each of the eight shifts of one form to a shift of the other. -/
theorem reflectedCrc16IsTheBitReversal : Obligations.ReflectedCrc16IsTheBitReversal := by
  intro c b
  have hbit : Function.Semiconj BitVec.reverse crc16BitMsb crc16Bit := fun x => (crc16Bit_reverse x).symm
  calc crc16Step c.reverse b.reverse
      = crc16Bit^[8] (c ^^^ placeHigh b).reverse := by rw [reverse_xor, reverse_placeHigh]; rfl
    _ = (crc16BitMsb^[8] (c ^^^ placeHigh b)).reverse := ((hbit.iterate_right 8).eq _).symm

theorem crc16Step_eq_reverse (c : U16) (b : U8) : crc16Step c b = (crc16StepMsb c.reverse b.reverse).reverse := by
  rw [← reflectedCrc16IsTheBitReversal, BitVec.reverse_reverse_eq, BitVec.reverse_reverse_eq]

theorem linearStep_crc16Step : LinearStep crc16Step where
  map_xor c d a b := by
    simp only [crc16Step_eq_reverse, reverse_xor, linearStep_crc16StepMsb.map_xor]
  register_eq_zero c h := by
    rw [crc16Step_eq_reverse, BitVec.reverse_eq_zero_iff] at h
    exact BitVec.reverse_eq_zero_iff.mp (linearStep_crc16StepMsb.register_eq_zero _ h)
  byte_eq_zero b h := by
    rw [crc16Step_eq_reverse, BitVec.reverse_eq_zero_iff] at h
    exact BitVec.reverse_eq_zero_iff.mp (linearStep_crc16StepMsb.byte_eq_zero _ h)

theorem linearStep_crc16StepFor (reflect : Bool) : LinearStep (crc16StepFor reflect) := by
  cases reflect
  · exact linearStep_crc16StepMsb
  · exact linearStep_crc16Step

/-! ### A byte step as a table look-up -/

/-- The lower half of the register is moved up by the eight shifts, no polynomial added. -/
theorem eightTimes_crc16BitMsb_lower (c : U16) : eightTimes crc16BitMsb (c ^^^ placeHigh (hiByte c)) = c <<< 8 := by
  have hclear : ∀ i < 8, (c ^^^ placeHigh (hiByte c)).getMsbD i = false := fun i hi => by
    rw [← getMsbD_hiByte _ hi, hiByte_xor, hiByte_placeHigh, BitVec.xor_self, BitVec.getMsbD_zero]
  calc eightTimes crc16BitMsb (c ^^^ placeHigh (hiByte c))
      = (c ^^^ placeHigh (hiByte c)) <<< 8 := iterate_msbFirstBit 8 hclear
    _ = c <<< 8 := by rw [BitVec.shiftLeft_xor_distrib, placeHigh_shiftLeft, BitVec.xor_zero]

theorem crc16StepMsb_eq_table (c : U16) (b : U8) :
    crc16StepMsb c b = (c <<< 8) ^^^ crc16StepMsb 0#16 (hiByte c ^^^ b) := by
  have hsplit : c ^^^ placeHigh b = (c ^^^ placeHigh (hiByte c)) ^^^ placeHigh (hiByte c ^^^ b) := by
    rw [placeHigh_xor, BitVec.xor_assoc, ← BitVec.xor_assoc (placeHigh _), BitVec.xor_self, BitVec.zero_xor]
  rw [crc16StepMsb_eq, crc16StepMsb_eq, hsplit, xorEmbedding_crc16BitMsb.eightTimes.map_xor,
    eightTimes_crc16BitMsb_lower, BitVec.zero_xor]

theorem crc16Step_eq_table (c : U16) (b : U8) :
    crc16Step c b = (c >>> 8) ^^^ crc16Step 0#16 (loByte c ^^^ b) := by
  have hzero : (0#16).reverse = 0#16 := BitVec.reverse_eq_zero_iff.mpr rfl
  rw [crc16Step_eq_reverse, crc16StepMsb_eq_table, reverse_xor, reverse_shiftLeft, BitVec.reverse_reverse_eq,
    hiByte_reverse, ← reverse_xor, crc16Step_eq_reverse 0#16, hzero]

theorem crc8Step_eq_table (c b : U8) : crc8Step c b = crc8Step 0#8 (c ^^^ b) := by
  rw [crc8Step, crc8Step, BitVec.zero_xor]

/-- Settles O21: each step is its table's look-up, and the entries listed are computed. -/
theorem crcByteStepsAreTableLookups : Obligations.CrcByteStepsAreTableLookups :=
  ⟨crc16Step_eq_table, crc16StepMsb_eq_table, crc8Step_eq_table, rfl, rfl, rfl⟩

/-! ### The fold of a linear step over the data -/

namespace LinearStep

variable {w : Nat} {step : BitVec w → U8 → BitVec w}

theorem map_zero (h : LinearStep step) : step 0#w 0#8 = 0#w := by
  have hzero := h.map_xor 0#w 0#w 0#8 0#8
  rwa [BitVec.xor_self, BitVec.xor_self, BitVec.xor_self] at hzero

theorem foldl_xor (h : LinearStep step) {d1 d2 : List U8} (hlen : d1.length = d2.length) (s1 s2 : BitVec w) :
    d1.foldl step s1 ^^^ d2.foldl step s2 = (List.zipWith (fun x y => x ^^^ y) d1 d2).foldl step (s1 ^^^ s2) := by
  induction d1 generalizing d2 s1 s2 with
  | nil => rw [List.eq_nil_of_length_eq_zero hlen.symm]; rfl
  | cons a d1 ih =>
    obtain _ | ⟨b, d2⟩ := d2
    · cases hlen
    · rw [List.foldl_cons, List.foldl_cons, ih (Nat.succ.inj hlen), ← h.map_xor]; rfl

theorem foldl_zeros (h : LinearStep step) (n : Nat) : (List.replicate n 0#8).foldl step 0#w = 0#w := by
  induction n with
  | zero => rfl
  | succ n ih => rw [List.replicate_succ, List.foldl_cons, h.map_zero, ih]

theorem foldl_zeros_ne_zero (h : LinearStep step) (n : Nat) {c : BitVec w} (hc : c ≠ 0#w) :
    (List.replicate n 0#8).foldl step c ≠ 0#w := by
  induction n generalizing c with
  | zero => exact hc
  | succ n ih => exact ih fun hzero => hc (h.register_eq_zero c hzero)

/-- Zeros before the byte leave the register at zero, the byte makes it non-zero, and zeros after it keep it so. -/
theorem foldl_one_nonzero_byte_ne_zero (h : LinearStep step) (m n : Nat) {v : U8} (hv : v ≠ 0#8) :
    (List.replicate m 0#8 ++ [v] ++ List.replicate n 0#8).foldl step 0#w ≠ 0#w := by
  rw [List.foldl_append, List.foldl_append, h.foldl_zeros]
  exact h.foldl_zeros_ne_zero n fun hzero => hv (h.byte_eq_zero v hzero)

end LinearStep

/-- Settles O19: the fold of a linear step is linear. -/
theorem crcsAreLinear : Obligations.CrcsAreLinear :=
  ⟨fun reflect s1 s2 _ _ hlen => (linearStep_crc16StepFor reflect).foldl_xor hlen s1 s2,
    fun s1 s2 _ _ hlen => linearStep_crc8Step.foldl_xor hlen s1 s2⟩

/-- Settles O20: a linear step that loses neither register nor byte keeps the one error. -/
theorem crcOfOneNonzeroByteIsNotZero : Obligations.CrcOfOneNonzeroByteIsNotZero := fun m n _ hv =>
  ⟨fun reflect => (linearStep_crc16StepFor reflect).foldl_one_nonzero_byte_ne_zero m n hv,
    linearStep_crc8Step.foldl_one_nonzero_byte_ne_zero m n hv⟩

/-! ### The two operations -/

theorem exec_crc16 (seed : U16) (data : List U8) (s : State) :
    exec (.crc16 seed data) s = .next (s.finish (.crc16 (crc16 s.cfg.crc16Reflect seed data))) := rfl

theorem exec_crc8 (seed : U8) (data : List U8) (s : State) :
    exec (.crc8 seed data) s = .next (s.finish (.crc8 (crc8 seed data))) := rfl

theorem crc16StepFor_apply (reflect : Bool) (c : U16) (b : U8) :
    crc16StepFor reflect c b = if reflect then crc16Step c b else crc16StepMsb c b := by
  cases reflect <;> rfl

theorem crc8_append (seed : U8) (a b : List U8) : crc8 seed (a ++ b) = crc8 (crc8 seed a) b := List.foldl_append

/-- The last step starts from an exclusive-or of the checksum with itself (R117). -/
theorem crc8_append_self (seed : U8) (a : List U8) : crc8 seed (a ++ [crc8 seed a]) = 0#8 := by
  have hself (c : U8) : crc8Step c c = 0#8 := by
    rw [crc8Step_eq_table, BitVec.xor_self, linearStep_crc8Step.map_zero]
  rw [crc8_append]
  exact hself _

/-- Settles O16: `CRC16` is the fold of the selected step, and its corner cases are those of a linear fold. -/
theorem crc16ReturnsTheChecksum : Obligations.Crc16ReturnsTheChecksum := by
  refine ⟨fun seed data s => ?_, fun _ _ => rfl, fun _ _ _ _ => List.foldl_append,
    fun reflect n => (linearStep_crc16StepFor reflect).foldl_zeros n, by decide +kernel⟩
  rw [exec_crc16, crc16, funext₂ (crc16StepFor_apply s.cfg.crc16Reflect)]

/-- Settles O17: `CRC8` is the fold of its step, and its corner cases are those of a linear fold. -/
theorem crc8ReturnsTheChecksum : Obligations.Crc8ReturnsTheChecksum :=
  ⟨exec_crc8, fun _ => rfl, crc8_append, linearStep_crc8Step.foldl_zeros, crc8_append_self 0#8, by decide +kernel⟩

end Sys2Proof.Machine

/-! ## O12: every step keeps the invariant

The invariant has two parts that different operations keep. Every operation keeps the decoders and the channels sound.
What the consumer owes is kept by the producers, who leave every owned frame owned, and by the consumer, who frees a
frame only when it serves it. -/

namespace Sys2Proof.Machine

/-! ### The two parts of the invariant -/

/-- Every service the consumer owes is of a frame it owns, none owed twice (44_dispatch.md R222). -/
structure State.OwesOwned (s : State) : Prop where
  some_left : s.ctl ≠ .serving []
  nodup : s.ctl.todo.Nodup
  owned : ∀ b ∈ s.ctl.todo, s.owned b = true

theorem inv_iff (s : State) : s.Inv ↔ s.cfg.rxCap ≠ 0#8 ∧ s.PartsSound ∧ s.OwesOwned := by
  constructor
  · intro h
    obtain ⟨hcap, -, -, -, -, hleft, hnodup, howned⟩ := id h
    exact ⟨hcap, .of_inv h, hleft, hnodup, howned⟩
  · rintro ⟨hcap, hparts, hleft, hnodup, howned⟩
    exact ⟨hcap, hparts.ap .bus0, hparts.ap .bus1, hparts.rx .bus0, hparts.rx .bus1, hleft, hnodup, howned⟩

/-- Outside the services of a turn nothing is owed. -/
theorem State.OwesOwned.of_not_serving {s : State} (h : ∀ bs, s.ctl ≠ .serving bs) : s.OwesOwned := by
  have htodo : s.ctl.todo = [] := by
    cases hctl : s.ctl with
    | ready | waiting | stepping => rfl
    | serving bs => exact absurd hctl (h bs)
  exact ⟨h [], by simp [htodo], by simp [htodo]⟩

/-- A service owed stays one of an owned frame where ownership of the frames owed is kept. -/
theorem State.OwesOwned.of_ctl_eq {s t : State} (h : s.OwesOwned) (hctl : t.ctl = s.ctl)
    (howned : ∀ b ∈ s.ctl.todo, s.owned b = true → t.owned b = true) : t.OwesOwned :=
  ⟨hctl ▸ h.some_left, hctl ▸ h.nodup, fun b hb => by rw [hctl] at hb; exact howned b hb (h.owned b hb)⟩

/-- Ownership is read off the channel. -/
theorem owned_congr {s t : State} {b : Bus} (h : t.rx b = s.rx b) : t.owned b = s.owned b := by
  rw [State.owned, State.owned, h]

theorem State.OwesOwned.finish {s : State} (h : s.OwesOwned) (r : Result) : (s.finish r).OwesOwned :=
  h.of_ctl_eq rfl fun b _ howned => (owned_congr (finish_rx s r b)).trans howned

/-- A channel that keeps its two flags keeps its owner. -/
theorem owned_setRx_of_flags {s : State} {b : Bus} {c : RxChan} (hfull : c.full = (s.rx b).full)
    (hsig : c.sig = (s.rx b).sig) (b' : Bus) : (s.setRx b c).owned b' = s.owned b' := by
  obtain rfl | rfl := eq_or_eq_other b b'
  · rw [State.owned, rx_setRx, hfull, hsig, State.owned]
  · exact owned_congr (rx_setRx_other s b c)

/-! ### The soundness of the parts, update by update -/

namespace State.PartsSound

theorem finish {s : State} (h : s.PartsSound) (r : Result) : (s.finish r).PartsSound :=
  h.of_eq rfl (finish_ap s r) (finish_rx s r)

theorem emit {s : State} (h : s.PartsSound) (e : Event) : (s.emit e).PartsSound :=
  h.of_eq rfl (emit_ap s e) (emit_rx s e)

theorem setAp {s : State} (h : s.PartsSound) {b : Bus} {d : ApDec} (hd : d.Sound s.cfg) :
    (s.setAp b d).PartsSound := by
  refine ⟨fun c => ?_, fun c => by rw [rx_setAp, setAp_cfg]; exact h.rx c⟩
  rw [setAp_cfg]
  obtain rfl | rfl := eq_or_eq_other b c
  · rwa [ap_setAp]
  · rw [ap_setAp_other]; exact h.ap _

theorem setRx {s : State} (h : s.PartsSound) {b : Bus} {c : RxChan} (hc : c.Sound s.cfg) :
    (s.setRx b c).PartsSound := by
  refine ⟨fun b' => by rw [ap_setRx, setRx_cfg]; exact h.ap b', fun b' => ?_⟩
  rw [setRx_cfg]
  obtain rfl | rfl := eq_or_eq_other b b'
  · rwa [rx_setRx]
  · rw [rx_setRx_other]; exact h.rx _

end State.PartsSound

/-! ### The channel's own updates (43_receiver_handshake.md) -/

namespace RxChan.Sound

variable {p : Params} {c : RxChan}

/-- A received byte lands right above the written ones, or at 0 (R192). -/
theorem store (h : c.Sound p) (v : U8) (hindex : (storeIndex p c).toNat < p.rxCap.toNat) :
    RxChan.Sound p { c.setBuf c.wsel (c.fill.write (storeIndex p c).toNat v) with cur := storeIndex p c + 1#8 } := by
  obtain ⟨hbuf0, hbuf1, hcur, hsig, hflen, hfill, hlatched⟩ := h
  have hnext : (storeIndex p c + 1#8).toNat = (storeIndex p c).toNat + 1 := by bv_omega
  have hbelow : c.fill.WrittenBelow (storeIndex p c).toNat := by
    unfold storeIndex
    split
    · exact fun i hi => absurd hi (by simp)
    · exact hfill
  have hbufs (k : BufSel) : (c.buf k).Good p.rxCap.toNat := by cases k <;> assumption
  have hwrite := write_good c.fill (storeIndex p c).toNat p.rxCap.toNat v (hbufs c.wsel) hindex
  have hbufs' (k : BufSel) :
      ((c.setBuf c.wsel (c.fill.write (storeIndex p c).toNat v)).buf k).Good p.rxCap.toNat := by
    by_cases hk : k = c.wsel
    · rw [hk, buf_setBuf]; exact hwrite
    · have hother : k = c.wsel.other := by
        revert hk; cases k <;> cases c.wsel <;> simp [BufSel.other]
      rw [hother, buf_setBuf_other]; exact hbufs _
  refine ⟨hbufs' .buf0, hbufs' .buf1, ?_, by simpa using hsig, by simpa using hflen, ?_, ?_⟩
  · simp only [hnext]; omega
  · rw [fill_of_stored]
    simpa only [hnext] using writtenBelow_write_next _ _ v hbelow
  · rw [latched_of_stored]; simpa using hlatched

/-- The filled buffer becomes the latched one with every byte of its frame written (R194). -/
theorem handOff (h : c.Sound p) :
    RxChan.Sound p { c with flen := c.cur, wsel := c.wsel.other, full := true, sig := true, cur := 0#8 } := by
  obtain ⟨hbuf0, hbuf1, hcur, -, -, hfill, -⟩ := h
  refine ⟨hbuf0, hbuf1, Nat.zero_le _, fun _ => rfl, fun _ => hcur, fun i hi => absurd hi (by simp), fun _ => ?_⟩
  rw [latched_of_handed]
  exact hfill

/-- A dropped frame leaves only the cursor behind (R195). -/
theorem restart (h : c.Sound p) : RxChan.Sound p { c with cur := 0#8 } := by
  obtain ⟨hbuf0, hbuf1, -, hsig, hflen, -, hlatched⟩ := h
  exact ⟨hbuf0, hbuf1, Nat.zero_le _, hsig, hflen, fun i hi => absurd hi (by simp), hlatched⟩

theorem clearSignal (h : c.Sound p) : RxChan.Sound p { c with sig := false } := by
  obtain ⟨hbuf0, hbuf1, hcur, -, hflen, hfill, hlatched⟩ := h
  exact ⟨hbuf0, hbuf1, hcur, nofun, hflen, hfill, hlatched⟩

/-- A frame given back was owned, so that no signal is left of it (R199). -/
theorem release (h : c.Sound p) (hsig : c.sig = false) : RxChan.Sound p c.released := by
  obtain ⟨hbuf0, hbuf1, hcur, -, -, hfill, -⟩ := h
  exact ⟨hbuf0, hbuf1, hcur, fun hs => by simp [RxChan.released, hsig] at hs, nofun, hfill, nofun⟩

end RxChan.Sound

/-! ### The shared operations -/

/-- `t` comes of `s` by an operation that keeps the parts sound and the consumer in its place. -/
structure State.Keeps (s t : State) : Prop where
  parts : s.PartsSound → t.PartsSound
  ctl : t.ctl = s.ctl

namespace State.Keeps

theorem refl (s : State) : s.Keeps s := ⟨id, rfl⟩

theorem trans {s t u : State} (h : s.Keeps t) (h' : t.Keeps u) : s.Keeps u :=
  ⟨h'.parts ∘ h.parts, h'.ctl.trans h.ctl⟩

theorem finish {s t : State} (h : s.Keeps t) (r : Result) : s.Keeps (t.finish r) :=
  h.trans ⟨fun hparts => hparts.finish r, rfl⟩

end State.Keeps

/-- The frame of the byte step and the soundness of its decoder together (R147). -/
theorem apDecodeByte_keeps {b : Bus} {byte : U8} {s t : State} {o : ApOutcome}
    (h : apDecodeByte b byte s = .ok (o, t)) : s.Keeps t := by
  have hframe := (apDecodeByte_ok b byte s t o h).1
  refine ⟨fun hparts => ?_, by rw [hframe, setAp_ctl]⟩
  obtain ⟨o', t', hbyte, hsound⟩ := apDecodeByte_of_sound byte (hparts.ap b)
  rw [h] at hbyte
  cases hbyte
  rw [hframe]
  exact hparts.setAp hsound

theorem receiveByte_keeps {b : Bus} {v : U8} {s t : State} (h : receiveByte b v s = .ok t) : s.Keeps t := by
  obtain ⟨-, hindex, rfl⟩ := (receiveByte_ok_iff b v s t).mp h
  exact ⟨fun hparts => hparts.setRx ((hparts.rx b).store v hindex), by simp⟩

theorem endOfFrame_keeps (b : Bus) (s : State) : s.Keeps (endOfFrame b s) := by
  cases hfull : (s.rx b).full with
  | false =>
    rw [endOfFrame_free b s hfull]
    exact ⟨fun hparts => (hparts.setRx (hparts.rx b).handOff).emit _, by simp [handOff]⟩
  | true =>
    rw [endOfFrame_full b s hfull]
    exact ⟨fun hparts => (hparts.setRx (hparts.rx b).restart).emit _, by simp [overrun]⟩

theorem clearSignals_keeps (s : State) : s.Keeps s.clearSignals := by
  refine ⟨fun hparts => ⟨fun b => ?_, fun b => ?_⟩, rfl⟩
  · rw [clearSignals_ap]; exact hparts.ap b
  · rw [clearSignals_rx]; exact (hparts.rx b).clearSignal

/-- A wait leaves the state but for the environment, or with its signals cleared (R197). -/
theorem waitSignal_keeps {s t : State} {o : Option WaitOutcome} (h : s.waitSignal = (o, t)) : s.Keeps t := by
  by_cases hsig : s.rx0.sig = true ∨ s.rx1.sig = true
  · rw [waitSignal_of_signal s hsig] at h
    cases h
    exact clearSignals_keeps s
  · simp only [not_or, Bool.not_eq_true] at hsig
    obtain ⟨_, _, hwait, -⟩ := waitSignal_of_none s hsig.1 hsig.2
    rw [hwait] at h
    cases h
    exact ⟨fun hparts => hparts.of_eq rfl (by rintro (_ | _) <;> rfl) (by rintro (_ | _) <;> rfl), rfl⟩

theorem release_keeps {b : Bus} {s : State} (h : s.owned b = true) : s.Keeps (s.release b) := by
  obtain ⟨-, hsig⟩ := (owned_iff s b).mp h
  exact ⟨fun hparts => hparts.setRx ((hparts.rx b).release hsig), by simp⟩

theorem takeFrame_keeps {b : Bus} {s t : State} {frame : List U8} (h : takeFrame b s = .ok (frame, t)) : s.Keeps t := by
  obtain ⟨howned, rfl, -⟩ := takeFrame_ok b s t frame h
  exact release_keeps howned

/-- Serving a frame writes one decoder, which it keeps sound, and the records (R222). -/
theorem serveFrame_keeps {b : Bus} {frame : List U8} {s t : State} (h : serveFrame b frame s = .ok t) : s.Keeps t := by
  obtain ⟨hrx0, hrx1, hcfg, hother⟩ := serveFrame_frame h
  refine ⟨fun hparts => ⟨fun c => ?_, fun c => ?_⟩, ?_⟩
  · obtain rfl | rfl := eq_or_eq_other b c
    · exact serveFrame_keeps_sound h (hparts.ap _)
    · rw [hother, hcfg]; exact hparts.ap _
  · rw [hcfg]
    cases c
    · rw [rx_bus0, hrx0]; exact hparts.rx .bus0
    · rw [rx_bus1, hrx1]; exact hparts.rx .bus1
  · obtain ⟨d, e, cs, es, rfl, -⟩ := serveFrame_ok b frame s t h
    exact setAp_ctl s b d

/-! ### The meanings -/

theorem returnFrame_keeps {frame : Except Refusal (List U8)} {s t : State} (h : returnFrame frame s = .next t) :
    s.Keeps t := by
  obtain ⟨bytes, -, rfl⟩ := (returnFrame_next_iff frame s t).mp h
  exact (State.Keeps.refl s).finish _

theorem execApDec_keeps {b : Bus} {byte : U8} {s t : State} (h : execApDec b byte s = .next t) : s.Keeps t := by
  obtain ⟨-, o, s1, hbyte, rfl⟩ := (execApDec_next_iff b byte s t).mp h
  exact (apDecodeByte_keeps hbyte).finish _

theorem execApRst_keeps {b : Bus} {s t : State} (h : execApRst b s = .next t) : s.Keeps t := by
  unfold execApRst at h
  split at h
  · cases h
    refine State.Keeps.finish ⟨fun hparts => hparts.setAp ?_, by simp⟩ _
    exact .of_cursor_clear (hparts.ap b).1 rfl rfl
  · cases h

theorem execRxByte_keeps {b : Bus} {v : U8} {s t : State} (h : execRxByte b v s = .next t) : s.Keeps t := by
  rw [execRxByte, toAnswer_next_iff] at h
  split at h
  · cases h
  · next hbyte => cases h; exact (receiveByte_keeps hbyte).finish _

theorem execRxEof_keeps {b : Bus} {s t : State} (h : execRxEof b s = .next t) : s.Keeps t := by
  cases h
  exact (endOfFrame_keeps b s).finish _

theorem execRxRd_keeps {b : Bus} {i : U8} {s t : State} (h : execRxRd b i s = .next t) : s.Keeps t := by
  rw [execRxRd, toAnswer_next_iff] at h
  split at h
  · cases h
  · cases h; exact (State.Keeps.refl s).finish _

theorem execRxRel_keeps {b : Bus} {s t : State} (h : execRxRel b s = .next t) : s.Keeps t := by
  unfold execRxRel at h
  split at h
  · next howned => cases h; exact (release_keeps howned).finish _
  · cases h

theorem execRxTake_keeps {b : Bus} {s t : State} (h : execRxTake b s = .next t) : s.Keeps t := by
  obtain ⟨frame, s1, htake, rfl⟩ := (execRxTake_next_iff b s t).mp h
  exact (takeFrame_keeps htake).finish _

/-- Where `DSP.SVC` completes: the frame is taken, then served. -/
theorem execDspSvc_next_iff (b : Bus) (s t : State) :
    execDspSvc b s = .next t ↔
      ∃ frame s1 s2, takeFrame b s = .ok (frame, s1) ∧ serveFrame b frame s1 = .ok s2 ∧ t = s2.finish .none := by
  rw [execDspSvc, toAnswer_next_iff]
  rcases takeFrame b s with _ | ⟨frame, s1⟩
  · simp
  · cases hserve : serveFrame b frame s1 <;> simp [hserve, eq_comm]

theorem execDspSvc_keeps {b : Bus} {s t : State} (h : execDspSvc b s = .next t) : s.Keeps t := by
  obtain ⟨frame, s1, s2, htake, hserve, rfl⟩ := (execDspSvc_next_iff b s t).mp h
  exact ((takeFrame_keeps htake).trans (serveFrame_keeps hserve)).finish _

theorem serveWire_keeps {b : Bus} {bytes : List U8} {s t : State} (h : serveWire b bytes s = .next t) : s.Keeps t := by
  rw [serveWire, toAnswer_next_iff] at h
  split at h
  · cases h
  · next hserve => cases h; exact (serveFrame_keeps hserve).finish _

/-- Every operation but the two that wait keeps the parts sound and the consumer in its place, by the family of its
meaning. -/
theorem exec_keeps {i : Instr} {s t : State} (hwait : i ≠ .sigWait) (hstep : i ≠ .dspStep) (h : exec i s = .next t) :
    s.Keeps t := by
  cases i with
  | crc16 | crc8 | raDec | raEnc => cases h; exact (State.Keeps.refl s).finish _
  | apEnc | apMkpkt | apMkcmd => exact returnFrame_keeps h
  | apMkack => rw [exec, execApMkack] at h; exact returnFrame_keeps h
  | apMknack => rw [exec, execApMknack] at h; exact returnFrame_keeps h
  | apDec => exact execApDec_keeps h
  | apRst => exact execApRst_keeps h
  | rxByte => exact execRxByte_keeps h
  | rxEof => exact execRxEof_keeps h
  | rxRd => exact execRxRd_keeps h
  | rxRel => exact execRxRel_keeps h
  | rxTake => exact execRxTake_keeps h
  | sigWait => exact absurd rfl hwait
  | dspStep => exact absurd rfl hstep
  | dspSvc => exact execDspSvc_keeps h
  | apData | apDataAck | apCmd | apCmdAck | apAck | apNack | raRead | raWrite => exact serveWire_keeps h
  | raResp => cases h; exact State.Keeps.finish ⟨fun hparts => hparts.emit _, rfl⟩ _

/-! ### The two operations that wait -/

/-- `SIG.WAIT` ends with its consumer between two operations or suspended in the wait (R197). -/
theorem execSigWait_owes {s t : State} (hparts : s.PartsSound) (h : execSigWait s = .next t) :
    t.PartsSound ∧ t.OwesOwned := by
  cases h
  split
  · next hwait => exact ⟨(((waitSignal_keeps hwait).parts hparts).withCtl _).finish _, .of_not_serving nofun⟩
  · next hwait => exact ⟨(((waitSignal_keeps hwait).parts hparts).withCtl _).finish _, .of_not_serving nofun⟩

/-- What a mask asks for is owned once the signals are cleared: a channel that signals is full (R35). -/
theorem owned_clearSignals {s : State} (hparts : s.PartsSound) {b : Bus} (hsig : (s.rx b).sig = true) :
    s.clearSignals.owned b = true := by
  obtain ⟨-, -, -, hfull, -⟩ := hparts.rx b
  rw [owned_iff, clearSignals_rx]
  exact ⟨hfull hsig, rfl⟩

/-- The services owed after a wait are of the buses that signalled, of which there is one (R221). -/
theorem oweServices_owes {s : State} (hparts : s.PartsSound) (hsig : s.rx0.sig = true ∨ s.rx1.sig = true) :
    (s.clearSignals.oweServices s.sigMask).PartsSound ∧ (s.clearSignals.oweServices s.sigMask).OwesOwned := by
  obtain ⟨todo, e, howe, hnodup, hbus0, hbus1, -⟩ := oweServices_spec s.clearSignals s.sigMask
  rw [sigMask_bit0] at hbus0
  rw [sigMask_bit1] at hbus1
  rw [howe]
  refine ⟨((clearSignals_keeps s).parts hparts).of_eq rfl (by rintro (_ | _) <;> rfl) (by rintro (_ | _) <;> rfl), ?_,
    hnodup, ?_⟩
  · rintro ⟨⟩
    simp only [List.not_mem_nil, false_iff] at hbus0 hbus1
    exact hsig.elim hbus0 hbus1
  · intro b hb
    cases b with
    | bus0 => exact owned_clearSignals hparts (b := .bus0) (hbus0.mp hb)
    | bus1 => exact owned_clearSignals hparts (b := .bus1) (hbus1.mp hb)

/-- A wait that returns a mask found a signal, and it returns the signals there were. -/
theorem waitSignal_signalled {s t : State} {m : BitVec 2} (h : s.waitSignal = (some (.signalled m), t)) :
    (s.rx0.sig = true ∨ s.rx1.sig = true) ∧ m = s.sigMask ∧ t = s.clearSignals := by
  by_cases hsig : s.rx0.sig = true ∨ s.rx1.sig = true
  · rw [waitSignal_of_signal s hsig] at h
    cases h
    exact ⟨hsig, rfl, rfl⟩
  · simp only [not_or, Bool.not_eq_true] at hsig
    obtain ⟨timeout, _, hwait, -⟩ := waitSignal_of_none s hsig.1 hsig.2
    rw [hwait] at h
    cases timeout <;> cases h

/-- `DSP.STEP` ends with the services of its mask owed, with none after a time-out, or suspended (R221). -/
theorem execDspStep_owes {s t : State} (hparts : s.PartsSound) (h : execDspStep s = .next t) :
    t.PartsSound ∧ t.OwesOwned := by
  cases h
  split
  · next hwait =>
    exact ⟨((((waitSignal_keeps hwait).parts hparts).withCtl _).emit _).finish _, .of_not_serving nofun⟩
  · next hwait =>
    obtain ⟨hsig, rfl, rfl⟩ := waitSignal_signalled hwait
    obtain ⟨hparts', howes⟩ := oweServices_owes hparts hsig
    exact ⟨hparts'.finish _, howes.finish _⟩
  · next hwait => exact ⟨(((waitSignal_keeps hwait).parts hparts).withCtl _).finish _, .of_not_serving nofun⟩

/-! ### What is owed, by the agent that moves (44_dispatch.md R222) -/

/-- A consumer that owes nothing may issue any operation: none but a wait leaves it owing a service, and of a wait the
frames owed are owned. -/
theorem exec_of_ready {i : Instr} {s t : State} (hparts : s.PartsSound) (hctl : s.ctl = .ready)
    (h : exec i s = .next t) : t.PartsSound ∧ t.OwesOwned := by
  by_cases hwait : i = .sigWait
  · subst hwait; exact execSigWait_owes hparts h
  by_cases hstep : i = .dspStep
  · subst hstep; exact execDspStep_owes hparts h
  obtain ⟨hparts', hctl'⟩ := exec_keeps hwait hstep h
  exact ⟨hparts' hparts, .of_not_serving fun bs => by simp [hctl', hctl]⟩

/-- A service frees the frame of its own bus only. -/
theorem execDspSvc_owned {b c : Bus} {s t : State} (hne : c ≠ b) (h : execDspSvc b s = .next t) :
    t.owned c = s.owned c := by
  obtain ⟨frame, s1, s2, htake, hserve, rfl⟩ := (execDspSvc_next_iff b s t).mp h
  obtain ⟨-, rfl, -⟩ := takeFrame_ok b s s1 frame htake
  obtain ⟨hrx0, hrx1, -⟩ := serveFrame_frame hserve
  have hrx : s2.rx c = (s.release b).rx c := by cases c <;> assumption
  exact owned_congr (by rw [finish_rx, hrx, State.release, rx_setRx_of_ne s b c _ hne])

/-- The service owed first is done and the others stay owed: none is of the same bus. -/
theorem execDspSvc_of_serving {b : Bus} {rest : List Bus} {s t : State} (hparts : s.PartsSound) (howes : s.OwesOwned)
    (hctl : s.ctl = .serving (b :: rest)) (hrest : rest ≠ [])
    (h : execDspSvc b (s.withCtl (.serving rest)) = .next t) : t.PartsSound ∧ t.OwesOwned := by
  obtain ⟨hparts', hctl'⟩ := execDspSvc_keeps h
  obtain ⟨-, hnodup, howned⟩ := howes
  rw [hctl, Ctl.todo] at hnodup howned
  obtain ⟨hnotin, hnodup'⟩ := List.nodup_cons.mp hnodup
  refine ⟨hparts' (hparts.withCtl _), by simpa [hctl'] using hrest, by rw [hctl']; exact hnodup', fun c hc => ?_⟩
  rw [hctl', withCtl_ctl, Ctl.todo] at hc
  have hne : c ≠ b := fun heq => hnotin (heq ▸ hc)
  rw [execDspSvc_owned hne h]
  exact (owned_congr (withCtl_rx s _ c)).trans (howned c (List.mem_cons_of_mem b hc))

theorem receiveByte_owned {b : Bus} {v : U8} {s t : State} (h : receiveByte b v s = .ok t) (c : Bus) :
    t.owned c = s.owned c := by
  obtain ⟨-, -, rfl⟩ := (receiveByte_ok_iff b v s t).mp h
  exact owned_setRx_of_flags (by simp) (by simp) c

/-- An end of frame into an owned channel is dropped; elsewhere it leaves the owner (R194, R195). -/
theorem endOfFrame_owned {b c : Bus} {s : State} (h : s.owned c = true) : (endOfFrame b s).owned c = true := by
  cases hfull : (s.rx b).full with
  | false =>
    have hne : c ≠ b := by
      rintro rfl
      exact absurd ((owned_iff s c).mp h).1 (by simp [hfull])
    rw [endOfFrame_free b s hfull, ← h]
    exact owned_congr (by rw [handOff, emit_rx, rx_setRx_of_ne s b c _ hne])
  | true =>
    rw [endOfFrame_full b s hfull, ← h]
    exact (owned_congr (emit_rx _ _ c)).trans (owned_setRx_of_flags (by rfl) (by rfl) c)

theorem owned_finish (s : State) (r : Result) (b : Bus) : (s.finish r).owned b = s.owned b :=
  owned_congr (finish_rx s r b)

theorem returnFrame_owned {frame : Except Refusal (List U8)} {s t : State} (h : returnFrame frame s = .next t) (b : Bus) :
    t.owned b = s.owned b := by
  obtain ⟨bytes, -, rfl⟩ := (returnFrame_next_iff frame s t).mp h
  exact owned_finish s _ b

/-- What a producer may issue is pure or of the receiver, and takes no owned frame away (60_exceptions.md R262). -/
theorem exec_of_producer_owned {b c : Bus} {i : Instr} {s t : State} (hissue : mayIssue (.producer b) i = true)
    (h : exec i s = .next t) (howned : s.owned c = true) : t.owned c = true := by
  cases i with
  | crc16 | crc8 | raDec | raEnc => cases h; rwa [owned_finish]
  | apEnc | apMkpkt | apMkcmd => rwa [returnFrame_owned h]
  | apMkack => rw [exec, execApMkack] at h; rwa [returnFrame_owned h]
  | apMknack => rw [exec, execApMknack] at h; rwa [returnFrame_owned h]
  | rxByte =>
    rw [exec, execRxByte, toAnswer_next_iff] at h
    split at h
    · cases h
    · next hbyte => cases h; rwa [owned_finish, receiveByte_owned hbyte]
  | rxEof => cases h; rw [owned_finish]; exact endOfFrame_owned howned
  | apDec | apRst | sigWait | rxRd | rxRel | rxTake | dspStep | dspSvc | apData | apDataAck | apCmd | apCmdAck | apAck
  | apNack | raRead | raWrite | raResp => cases hissue

/-! ### The moves -/

theorem producerMove_owes {b : Bus} {s t : State} (hparts : s.PartsSound) (howes : s.OwesOwned)
    (h : producerMove b s = .next t) : t.PartsSound ∧ t.OwesOwned := by
  unfold producerMove at h
  split at h
  · cases h; exact ⟨hparts, howes⟩
  unfold runRequest at h
  split at h
  · cases h
  split at h
  · next i _ hissue =>
    obtain ⟨hparts', hctl⟩ := exec_keeps (by rintro rfl; cases hissue) (by rintro rfl; cases hissue) h
    refine ⟨hparts' (hparts.setQueue _ _), howes.of_ctl_eq (by rw [hctl, setQueue_ctl]) fun c _ howned => ?_⟩
    exact exec_of_producer_owned hissue h (by rwa [owned_congr (setQueue_rx s _ _ c)])
  · cases h

theorem consumerMove_owes {s t : State} (hparts : s.PartsSound) (howes : s.OwesOwned) (h : consumerMove s = .next t) :
    t.PartsSound ∧ t.OwesOwned := by
  unfold consumerMove at h
  split at h
  · exact exec_of_ready (hparts.withCtl _) rfl h
  · exact exec_of_ready (hparts.withCtl _) rfl h
  · next hctl => exact absurd hctl howes.some_left
  · exact exec_of_ready (hparts.withCtl _) rfl h
  · next b rest hrest hctl => exact execDspSvc_of_serving hparts howes hctl hrest h
  · next hctl =>
    split at h
    · exact exec_of_ready hparts hctl h
    unfold runRequest at h
    split at h
    · cases h
    split at h
    · exact exec_of_ready (hparts.setQueue _ _) (by rwa [setQueue_ctl]) h
    · cases h

theorem blockReset_owes (s : State) : (blockReset s).PartsSound ∧ (blockReset s).OwesOwned := by
  refine ⟨⟨fun b => ?_, fun b => ?_⟩, .of_not_serving nofun⟩
  · cases b <;> exact ApDec.reset_sound s.cfg
  · cases b <;> exact RxChan.reset_sound s.cfg

theorem runMove_owes {m : Move} {s t : State} (hparts : s.PartsSound) (howes : s.OwesOwned)
    (h : runMove m s = .next t) : t.PartsSound ∧ t.OwesOwned := by
  match m with
  | .reset => cases h; exact blockReset_owes s
  | .agent (.producer _) => exact producerMove_owes hparts howes h
  | .agent .consumer => exact consumerMove_owes hparts howes h

theorem step_owes {s t : State} (hparts : s.PartsSound) (howes : s.OwesOwned) (h : step s = .next t) :
    t.PartsSound ∧ t.OwesOwned := by
  unfold step nextMove at h
  split at h
  · cases h; exact ⟨hparts, howes⟩
  · next ms _ =>
    refine runMove_owes (hparts.withSched ms) (howes.of_ctl_eq rfl fun b _ howned => ?_) h
    rwa [owned_congr (withSched_rx s ms b)]

/-- Settles O12: the parameters are constant, and each move keeps both parts of the invariant. -/
theorem everyStepKeepsTheInvariant : Obligations.EveryStepKeepsTheInvariant := by
  intro s t hinv h
  obtain ⟨hcap, hparts, howes⟩ := (inv_iff s).mp hinv
  exact (inv_iff t).mpr ⟨by rwa [(step_extendedBy h).cfg], step_owes hparts howes h⟩

end Sys2Proof.Machine

/-! ## O22 to O30 and O32: `AP.DEC` byte by byte, and `AP.RST`

The position of the cursor and the length say which arm a byte comes to (41_addressed_packet.md R131); the statements then
are what the arms say. -/

namespace Sys2Proof.Machine

/-! ### The arm a byte comes to -/

/-- On a bus with the Addressed-Packet codec `AP.DEC` completes where its arm goes through, and returns the arm's outcome. -/
theorem exec_apDec_of_arm {b : Bus} {byte : U8} {s : State} {r : ApOutcome × State} (hcodec : codecOf s.cfg b = .ap)
    (h : apDecodeByte b byte s = .ok r) : exec (.apDec b byte) s = .next (r.2.finish (.ap r.1)) :=
  (execApDec_next_iff b byte s _).mpr ⟨hcodec, r.1, r.2, h, rfl⟩

section Arms

variable {b : Bus} {s : State} (byte : U8)

theorem apDecodeByte_of_start (h : (s.ap b).pos = 0#8) : apDecodeByte b byte s = .ok (armStart b byte s) := by
  simp [apDecodeByte, h]

theorem apDecodeByte_of_src (h : (s.ap b).pos = 1#8) : apDecodeByte b byte s = .ok (armSrc b byte s) := by
  simp [apDecodeByte, h]

theorem apDecodeByte_of_dst (h : (s.ap b).pos = 2#8) : apDecodeByte b byte s = .ok (armDst b byte s) := by
  simp [apDecodeByte, h]

theorem apDecodeByte_of_len (h : (s.ap b).pos = 3#8) : apDecodeByte b byte s = .ok (armLen b byte s) := by
  simp [apDecodeByte, h]

theorem apDecodeByte_of_typ (h : (s.ap b).pos = 4#8) : apDecodeByte b byte s = .ok (armType b byte s) := by
  simp [apDecodeByte, h]

theorem apDecodeByte_of_beyond (h : 6 + (s.ap b).len.toNat < (s.ap b).pos.toNat) :
    apDecodeByte b byte s = .ok (armBeyond b s) := by
  grind [apDecodeByte]

end Arms

/-! ### The arms of the header -/

/-- Settles O22: the arm of the START byte. -/
theorem apDecStartByte : Obligations.ApDecStartByte := by
  intro s b byte hcodec hpos
  rw [exec_apDec_of_arm hcodec (apDecodeByte_of_start byte hpos), armStart, apSof]
  split <;> rfl

/-- Settles O23: the arms of the SRC byte and of the TYPE byte. -/
theorem apDecSourceAndTypeBytes : Obligations.ApDecSourceAndTypeBytes :=
  ⟨fun _ _ byte hcodec hpos => exec_apDec_of_arm hcodec (apDecodeByte_of_src byte hpos),
    fun _ _ byte hcodec hpos => exec_apDec_of_arm hcodec (apDecodeByte_of_typ byte hpos)⟩

/-- Settles O24: the arm of the DST byte, which the mode chooses. -/
theorem apDecDestinationByte : Obligations.ApDecDestinationByte := by
  refine ⟨fun s b byte hcodec hpos hmode => ?_, fun s b byte hcodec hpos hmode => ?_⟩
  · rw [exec_apDec_of_arm hcodec (apDecodeByte_of_dst byte hpos), armDst, hmode]
    rfl
  · rw [exec_apDec_of_arm hcodec (apDecodeByte_of_dst byte hpos), armDst, hmode]
    simp only [armDstImmediate]
    split
    · rfl
    · rw [State.resetCursor, ap_setAp, setAp_setAp]

/-- Settles O25: the arm of the LEN byte. -/
theorem apDecLengthByte : Obligations.ApDecLengthByte := by
  intro s b byte hcodec hpos
  rw [exec_apDec_of_arm hcodec (apDecodeByte_of_len byte hpos), armLen, apMaxPayload]
  split <;> rfl

/-! ### The arms behind the header -/

/-- Settles O26: the payload arm writes one byte of the store, and the checksum arm one register. -/
theorem apDecPayloadAndChecksumHighBytes : Obligations.ApDecPayloadAndChecksumHighBytes := by
  refine ⟨fun s b byte hcodec hlow hhigh hlen => ?_, fun s b byte hcodec hpos =>
    exec_apDec_of_arm hcodec (apDecodeByte_of_crcHigh byte hpos)⟩
  have harm := (armPayload_ok_iff b byte s _ _).mpr ⟨by omega, rfl, rfl⟩
  exact ⟨(s.ap b).payload.write ((s.ap b).pos.toNat - 5) byte,
    exec_apDec_of_arm hcodec ((apDecodeByte_of_payload byte hlow hhigh).trans harm),
    read_write_same _ _ byte, fun j hj => read_write_other _ _ j byte hj⟩

/-- Settles O27: the payload held is the one read back, and the outcome is decided on it. -/
theorem apDecChecksumLowByte : Obligations.ApDecChecksumLowByte := by
  rintro s b byte payload hcodec hpos ⟨hlen, hfits, hheld⟩
  have hread : s.readBytes (.payload b) 0 (s.ap b).len.toNat = .ok payload := by
    rw [hlen]
    exact readBytes_eq s (.payload b) payload 0 (by simpa [storeSize] using hfits) (by simpa [State.store] using hheld)
  have harm := (armCrcLow_ok_iff b byte s _ _).mpr ⟨payload, hread, rfl, rfl⟩
  exact exec_apDec_of_arm hcodec ((apDecodeByte_of_crcLow byte hpos).trans harm)

/-- Settles O28: the arm no run comes to. -/
theorem apDecBeyondTheEnd : Obligations.ApDecBeyondTheEnd :=
  fun _ _ byte hcodec hpos => exec_apDec_of_arm hcodec (apDecodeByte_of_beyond byte hpos)

/-! ### The arms together -/

theorem endOutcome_ne_error (p : Params) (d : ApDec) (byte : U8) (payload : List U8) :
    endOutcome p d byte payload ≠ .error := by
  unfold endOutcome
  split
  · nofun
  · split <;> nofun

/-- ERROR is the outcome of the last arm alone (R142). -/
theorem beyond_of_outcome_error {b : Bus} {byte : U8} {s t : State} (h : apDecodeByte b byte s = .ok (.error, t)) :
    6 + (s.ap b).len.toNat < (s.ap b).pos.toNat := by
  simp only [apDecodeByte] at h
  split at h
  · unfold armStart at h; split at h <;> cases h
  split at h
  · cases h
  split at h
  · unfold armDst armDstImmediate at h
    split at h
    · cases h
    · split at h <;> cases h
  split at h
  · unfold armLen at h; split at h <;> cases h
  split at h
  · cases h
  split at h
  · obtain ⟨-, houtcome, -⟩ := (armPayload_ok_iff b byte s t _).mp h
    cases houtcome
  split at h
  · cases h
  split at h
  · obtain ⟨payload, -, houtcome, -⟩ := (armCrcLow_ok_iff b byte s t _).mp h
    exact absurd houtcome.symm (endOutcome_ne_error _ _ _ _)
  · omega

/-- Settles O29: a sound decoder takes any byte, and its position is never past the end, where ERROR comes from. -/
theorem apDecCompletesOnSoundInstances : Obligations.ApDecCompletesOnSoundInstances := by
  intro s b byte hcodec hsound
  obtain ⟨o, t, hbyte, hsound'⟩ := apDecodeByte_of_sound byte hsound
  have hcfg : t.cfg = s.cfg := (apDecodeByte_extendedBy hbyte).cfg
  refine ⟨t.finish (.ap o), o, exec_apDec_of_arm hcodec hbyte, rfl, ?_, by rwa [finish_ap, finish_cfg, hcfg]⟩
  rintro rfl
  have hbeyond := beyond_of_outcome_error hbyte
  obtain ⟨-, hlegal, -⟩ := hsound
  omega

/-- Settles O30: an arm gives NOT_READY or leaves the cursor at 0. -/
theorem terminalOutcomesResetTheCursor : Obligations.TerminalOutcomesResetTheCursor := by
  intro s t b byte o h hresult hterminal
  obtain ⟨-, o', s1, hbyte, rfl⟩ := (execApDec_next_iff b byte s t).mp h
  cases hresult
  rw [finish_ap]
  exact (apDecodeByte_ok b byte s s1 o hbyte).2.resolve_left hterminal

/-- Settles O32: the cursor reset is what `AP.RST` does where the decoder exists. -/
theorem apRstResetsTheCursorOnly : Obligations.ApRstResetsTheCursorOnly := by
  refine ⟨fun s b hcodec => ?_, fun s b byte hcodec => ⟨?_, ?_⟩⟩
  · rw [exec, execApRst, if_pos hcodec, State.resetCursor]
  · rw [exec, execApDec, if_neg hcodec]
  · rw [exec, execApRst, if_neg hcodec]

end Sys2Proof.Machine

/-! ## O33 to O37 and O4: whole frames, the encoder and the reserved types -/

namespace Sys2Proof.Machine

/-! ### Frames decoded (41_addressed_packet.md R145) -/

/-- Settles O33: the run of the decoder through a whole frame. -/
theorem wellFormedFrameGivesOneTerminalOutcome : Obligations.WellFormedFrameGivesOneTerminalOutcome :=
  fun _ _ src _ typ _ crc hcodec hmode hpos hlen => feedAp_apFrameBytes src typ crc hcodec hpos hlen hmode

/-- The outcome of a frame for this node that carries its checksum. -/
theorem frameOutcome_of_valid (p : Params) (src typ : U8) (payload : List U8) :
    frameOutcome p src p.nodeAddr typ payload (frameCrc16 p src p.nodeAddr typ payload) =
      .ready ⟨src, p.nodeAddr, BitVec.ofNat 8 payload.length, typ, payload,
        frameCrc16 p src p.nodeAddr typ payload⟩ := by
  rw [frameOutcome, if_neg (not_not.mpr rfl), if_neg (not_not.mpr rfl)]

/-! ### The encoder (R150, R151) -/

theorem apEncode_of_too_long (p : Params) (src dst typ : U8) {payload : List U8} (h : 248 < payload.length) :
    apEncode p src dst typ payload = .error .encTooLong :=
  if_pos h

theorem apEncode_of_bad_type (p : Params) (src dst : U8) {typ : U8} {payload : List U8} (hlen : payload.length ≤ 248)
    (htyp : typ.toNat < 1 ∨ 6 < typ.toNat) : apEncode p src dst typ payload = .error .encBadType := by
  have hfits : ¬ payload.length > apMaxPayload := not_lt.mpr hlen
  rw [apEncode, if_neg hfits, if_pos htyp]

/-- Where `AP.ENC` goes through, and what it returns there. -/
theorem apEncode_ok_iff (p : Params) (src dst typ : U8) (payload bytes : List U8) :
    apEncode p src dst typ payload = .ok bytes ↔
      payload.length ≤ 248 ∧ 1 ≤ typ.toNat ∧ typ.toNat ≤ 6 ∧
        bytes = apFrameBytes src dst typ payload (frameCrc16 p src dst typ payload) := by
  by_cases hlen : payload.length ≤ 248
  · by_cases htyp : typ.toNat < 1 ∨ 6 < typ.toNat
    · rw [apEncode_of_bad_type p src dst hlen htyp]
      refine ⟨nofun, fun ⟨_, hlow, hhigh, _⟩ => ?_⟩
      omega
    · rw [not_or, not_lt, not_lt] at htyp
      rw [apEncode_ok p src dst typ payload hlen htyp.1 htyp.2]
      simp [hlen, htyp, eq_comm]
  · rw [apEncode_of_too_long p src dst typ (not_le.mp hlen)]
    exact ⟨nofun, fun h => absurd h.1 hlen⟩

theorem apFrameBytes_length (src dst typ : U8) (payload : List U8) (crc : U16) :
    (apFrameBytes src dst typ payload crc).length = 7 + payload.length := by
  simp only [apFrameBytes, List.length_append, List.length_cons, List.length_nil]
  omega

theorem exec_apEnc (src dst typ : U8) (payload : List U8) (s : State) :
    exec (.apEnc src dst typ payload) s = returnFrame (apEncode s.cfg src dst typ payload) s := rfl

theorem exec_apMkpkt (payload : List U8) (dest typ : U8) (s : State) :
    exec (.apMkpkt payload dest typ) s = exec (.apEnc s.cfg.nodeAddr dest typ payload) s := rfl

theorem exec_apMkcmd (cmd dest : U8) (ack : Bool) (s : State) :
    exec (.apMkcmd cmd dest ack) s = exec (.apEnc s.cfg.nodeAddr dest (if ack then 4#8 else 3#8) [cmd]) s := rfl

theorem exec_apMkack (dest : U8) (s : State) :
    exec (.apMkack dest) s = exec (.apEnc s.cfg.nodeAddr dest 5#8 []) s := by
  rw [exec_apEnc, exec, execApMkack]

theorem exec_apMknack (dest : U8) (s : State) :
    exec (.apMknack dest) s = exec (.apEnc s.cfg.nodeAddr dest 6#8 []) s := by
  rw [exec_apEnc, exec, execApMknack]

/-- `AP.ENC` completes on every payload that fits and every type, and returns the frame. -/
theorem exec_apEnc_ok (s : State) (src dst typ : U8) (payload : List U8) (hlen : payload.length ≤ 248)
    (hlow : 1 ≤ typ.toNat) (hhigh : typ.toNat ≤ 6) :
    exec (.apEnc src dst typ payload) s =
      .next (s.finish (.frame (apFrameBytes src dst typ payload (frameCrc16 s.cfg src dst typ payload)))) := by
  rw [exec_apEnc, apEncode_ok s.cfg src dst typ payload hlen hlow hhigh, returnFrame]

/-- Settles O36: the frame returned, and the two refusals in their order. -/
theorem apEncReturnsTheFrame : Obligations.ApEncReturnsTheFrame := by
  refine ⟨exec_apEnc_ok, fun s src dst typ payload hlen => ?_, fun s src dst typ payload hlen htyp => ?_⟩
  · rw [exec_apMkpkt, exec_apEnc, exec_apEnc, apEncode_of_too_long _ _ _ _ hlen, apEncode_of_too_long _ _ _ _ hlen]
    exact ⟨rfl, rfl⟩
  · rw [exec_apMkpkt, exec_apEnc, exec_apEnc, apEncode_of_bad_type _ _ _ hlen htyp, apEncode_of_bad_type _ _ _ hlen htyp]
    exact ⟨rfl, rfl⟩

/-- A legal packet is encoded in every state, in a frame of 7 bytes more than its payload. -/
theorem exec_apEnc_completes (s : State) (src dst typ : U8) (payload : List U8) (hlen : payload.length ≤ 248)
    (hlow : 1 ≤ typ.toNat) (hhigh : typ.toNat ≤ 6) :
    ∃ bytes, apEncode s.cfg src dst typ payload = .ok bytes ∧ bytes.length = 7 + payload.length ∧
      exec (.apEnc src dst typ payload) s = .next (s.finish (.frame bytes)) :=
  ⟨_, apEncode_ok s.cfg src dst typ payload hlen hlow hhigh, apFrameBytes_length _ _ _ _ _,
    exec_apEnc_ok s src dst typ payload hlen hlow hhigh⟩

/-- Settles O37: each helper is `AP.ENC` with its operands, which are legal ones where the helper fixes them. -/
theorem helpersEncodeFromThisNode : Obligations.HelpersEncodeFromThisNode := by
  refine ⟨fun s payload dest typ => exec_apMkpkt payload dest typ s,
    fun s payload dest typ => exec_apEnc_completes s s.cfg.nodeAddr dest typ payload,
    fun s cmd dest ack => ⟨exec_apMkcmd cmd dest ack s, ?_⟩,
    fun s dest => ⟨exec_apMkack dest s, exec_apMknack dest s, ?_, ?_⟩⟩
  · obtain ⟨bytes, -, hlength, hexec⟩ := exec_apEnc_completes s s.cfg.nodeAddr dest (if ack then 4#8 else 3#8) [cmd]
      (by simp) (by cases ack <;> simp) (by cases ack <;> simp)
    exact ⟨bytes, hlength, hexec⟩
  · obtain ⟨bytes, -, hlength, hexec⟩ := exec_apEnc_completes s s.cfg.nodeAddr dest 5#8 [] (by simp) (by simp) (by simp)
    exact ⟨bytes, hlength, (exec_apMkack dest s).trans hexec⟩
  · obtain ⟨bytes, -, hlength, hexec⟩ := exec_apEnc_completes s s.cfg.nodeAddr dest 6#8 [] (by simp) (by simp) (by simp)
    exact ⟨bytes, hlength, (exec_apMknack dest s).trans hexec⟩

/-- Settles O34: what `AP.ENC` returns is a frame for this node with its own checksum. -/
theorem encodedPacketDecodesToItsFields : Obligations.EncodedPacketDecodesToItsFields := by
  intro s b src typ payload hcodec hpos hlow hhigh hlen
  have hexec := exec_apEnc_ok s src s.cfg.nodeAddr typ payload hlen hlow hhigh
  generalize hbytes : apFrameBytes src s.cfg.nodeAddr typ payload (frameCrc16 s.cfg src s.cfg.nodeAddr typ payload) = bytes
    at hexec
  obtain ⟨u, hfeed, -⟩ := feedAp_apFrameBytes (s := s.finish (.frame bytes)) src typ
    (frameCrc16 s.cfg src s.cfg.nodeAddr typ payload) hcodec (by rwa [finish_ap]) hlen (.inr rfl)
  rw [finish_cfg, hbytes, frameOutcome_of_valid] at hfeed
  exact ⟨s.finish (.frame bytes), bytes, u, hexec, rfl, hfeed⟩

/-! ### One corrupted byte (R157, 40_crc.md R120) -/

namespace LinearStep

variable {w : Nat} {step : BitVec w → U8 → BitVec w}

theorem register_injective (h : LinearStep step) {c d : BitVec w} {a : U8} (heq : step c a = step d a) : c = d := by
  refine BitVec.xor_eq_zero_iff.mp (h.register_eq_zero _ ?_)
  calc step (c ^^^ d) 0#8 = step (c ^^^ d) (a ^^^ a) := by rw [BitVec.xor_self]
    _ = step c a ^^^ step d a := h.map_xor c d a a
    _ = 0#w := by rw [heq, BitVec.xor_self]

theorem byte_injective (h : LinearStep step) {c : BitVec w} {a b : U8} (heq : step c a = step c b) : a = b := by
  refine BitVec.xor_eq_zero_iff.mp (h.byte_eq_zero _ ?_)
  calc step 0#w (a ^^^ b) = step (c ^^^ c) (a ^^^ b) := by rw [BitVec.xor_self]
    _ = step c a ^^^ step c b := h.map_xor c c a b
    _ = 0#w := by rw [heq, BitVec.xor_self]

/-- Two registers that differ are kept apart by the same bytes. -/
theorem foldl_injective (h : LinearStep step) (bytes : List U8) {c d : BitVec w}
    (heq : bytes.foldl step c = bytes.foldl step d) : c = d := by
  induction bytes generalizing c d with
  | nil => exact heq
  | cons a bytes ih => exact h.register_injective (ih heq)

/-- One byte changed changes the fold, whatever stands before and after it. -/
theorem foldl_set_ne (h : LinearStep step) {bytes : List U8} {k : Nat} {v : U8} (hk : k < bytes.length)
    (hv : bytes[k]? ≠ some v) (c : BitVec w) : (bytes.set k v).foldl step c ≠ bytes.foldl step c := by
  induction bytes generalizing k c with
  | nil => simp at hk
  | cons a bytes ih =>
    cases k with
    | zero =>
      intro heq
      have hva : v = a := h.byte_injective (h.foldl_injective bytes heq)
      exact hv (by simp [hva])
    | succ k => exact ih (Nat.lt_of_succ_lt_succ hk) (by simpa using hv) (step c a)

end LinearStep

/-- The bytes of a frame its checksum is taken over (30_encoding.md R85). -/
def frameBody (src dst typ : U8) (payload : List U8) : List U8 :=
  [src, dst, BitVec.ofNat 8 payload.length, typ] ++ payload

theorem frameCrc16_eq_foldl (p : Params) (src dst typ : U8) (payload : List U8) :
    frameCrc16 p src dst typ payload = (frameBody src dst typ payload).foldl (crc16StepFor p.crc16Reflect) 0#16 := rfl

theorem apFrameBytes_eq_frameBody (src dst typ : U8) (payload : List U8) (crc : U16) :
    apFrameBytes src dst typ payload crc = apSof :: (frameBody src dst typ payload ++ [hiByte crc, loByte crc]) := by
  simp [apFrameBytes, frameBody]

theorem frameBody_length (src dst typ : U8) (payload : List U8) :
    (frameBody src dst typ payload).length = 4 + payload.length := by
  simp only [frameBody, List.length_append, List.length_cons, List.length_nil]

/-- A body with a byte other than LEN replaced is the body of a frame as long. -/
theorem frameBody_set (src dst typ v : U8) (payload : List U8) {k : Nat} (hlen : k ≠ 2) :
    ∃ src' dst' typ' payload', (frameBody src dst typ payload).set k v = frameBody src' dst' typ' payload' ∧
      payload'.length = payload.length ∧ (k ≠ 1 → dst' = dst) := by
  match k, hlen with
  | 0, _ => exact ⟨v, dst, typ, payload, rfl, rfl, fun _ => rfl⟩
  | 1, _ => exact ⟨src, v, typ, payload, rfl, rfl, fun h => absurd rfl h⟩
  | 3, _ => exact ⟨src, dst, v, payload, rfl, rfl, fun _ => rfl⟩
  | k + 4, _ => exact ⟨src, dst, typ, payload.set k v, by simp [frameBody], List.length_set, fun _ => rfl⟩

/-- Settles O35: the corrupted bytes are a frame as long, whose checksum is not the one it carries. -/
theorem oneCorruptedByteIsInvalid : Obligations.OneCorruptedByteIsInvalid := by
  intro s b src typ v payload bytes k hcodec hpos hencode hlow hhigh hlenByte hdst hv
  obtain ⟨hlen, -, -, rfl⟩ := (apEncode_ok_iff _ _ _ _ _ _).mp hencode
  obtain ⟨k, rfl⟩ : ∃ k', k = k' + 1 := ⟨k - 1, by omega⟩
  have hk : k < (frameBody src s.cfg.nodeAddr typ payload).length := by rw [frameBody_length]; omega
  obtain ⟨src', dst', typ', payload', hset, hlen', hdst'⟩ :=
    frameBody_set src s.cfg.nodeAddr typ v payload (k := k) (by omega)
  have hmode : s.cfg.wrongAddrMode = .consume ∨ dst' = s.cfg.nodeAddr := by
    by_cases hk1 : k = 1
    · exact .inl (hdst (by omega))
    · exact .inr (hdst' hk1)
  rw [apFrameBytes_eq_frameBody] at hv ⊢
  rw [List.getElem?_cons_succ, List.getElem?_append_left hk] at hv
  rw [List.set_cons_succ, List.set_append_left _ _ hk, hset, ← apFrameBytes_eq_frameBody]
  obtain ⟨u, hfeed, -⟩ := feedAp_apFrameBytes src' typ' (frameCrc16 s.cfg src s.cfg.nodeAddr typ payload) hcodec hpos
    (hlen'.trans_le hlen) hmode
  have hcrc : frameCrc16 s.cfg src' dst' typ' payload' ≠ frameCrc16 s.cfg src s.cfg.nodeAddr typ payload := by
    rw [frameCrc16_eq_foldl, frameCrc16_eq_foldl, ← hset]
    exact (linearStep_crc16StepFor _).foldl_set_ne hk hv 0#16
  rw [frameOutcome, if_pos hcrc, hlen'] at hfeed
  exact ⟨u, hfeed⟩

/-! ### Reserved types (R144, 30_encoding.md R93) -/

/-- No code but 1 to 6 is that of a type. -/
theorem ne_codes_of_reserved {t : U8} (h : t.toNat < 1 ∨ 6 < t.toNat) :
    t ≠ 1#8 ∧ t ≠ 2#8 ∧ t ≠ 3#8 ∧ t ≠ 4#8 ∧ t ≠ 5#8 ∧ t ≠ 6#8 := by
  refine ⟨?_, ?_, ?_, ?_, ?_, ?_⟩ <;>
  · rintro rfl
    simp at h

theorem typeOf_of_reserved {t : U8} (h : t.toNat < 1 ∨ 6 < t.toNat) : typeOf t = .unknown t := by
  simp [typeOf, ne_codes_of_reserved h]

theorem apFrameKind_of_reserved (b : Bus) (src dst : U8) {typ : U8} (payload : List U8) (crc : U16)
    (h : typ.toNat < 1 ∨ 6 < typ.toNat) : apFrameKind b src dst typ payload crc = .error (.reservedType typ) := by
  simp [apFrameKind, ne_codes_of_reserved h]

/-- Settles O4: a reserved code is none of the six, for `type_of` and for the decoder of a frame's kind. -/
theorem reservedTypesAreExplicit : Obligations.ReservedTypesAreExplicit := by
  refine ⟨rfl, rfl, rfl, rfl, rfl, rfl, fun _ => typeOf_of_reserved, fun b src dst typ payload crc hlen htyp => ?_⟩
  calc decode ⟨.frameIn b, apFrameBytes src dst typ payload crc⟩
      = apFrameKind b src dst typ payload crc := decodeFrameIn_apFrameBytes b src dst typ crc (decide_eq_true hlen)
    _ = .error (.reservedType typ) := apFrameKind_of_reserved b src dst payload crc htyp

end Sys2Proof.Machine

/-! ## O38 to O40: the Register-Access codec -/

namespace Sys2Proof.Machine

theorem exec_raDec (frame : List U8) (s : State) :
    exec (.raDec frame) s = .next (s.finish (.ra (raDecode frame))) := rfl

theorem exec_raEnc (addr : U8) (value : U32) (s : State) :
    exec (.raEnc addr value) s = .next (s.finish (.frame (raEncode addr value))) := rfl

/-! ### The decoder (42_register_access.md R171, R172) -/

/-- Settles O38: the length says which kind of request a frame is, and the checksum whether it is one. -/
theorem raDecClassifiesEveryFrame : Obligations.RaDecClassifiesEveryFrame := by
  refine ⟨fun s addr crc => ?read, fun s addr b3 b2 b1 b0 crc => ?write, fun s frame h2 h6 => ?other⟩
  case read => rw [exec_raDec, raDecode_two]
  case write => rw [exec_raDec, raDecode_six, word]
  case other => rw [exec_raDec, raDecode_other frame h2 h6]

/-! ### The encoder (R175) -/

/-- Settles O39: the five bytes of the body are the address and those of the value. -/
theorem raEncReturnsTheResponse : Obligations.RaEncReturnsTheResponse := by
  intro s addr value body
  have hbody : body = addr :: wordBytes value := rfl
  rw [exec_raEnc, raEncode, hbody, crc8SeedFrame]

/-! ### Round trip (R176) -/

/-- A read request that carries its own checksum decodes to its address. -/
theorem raDecode_two_crc8 (addr : U8) : raDecode [addr, crc8 0#8 [addr]] = .ok (.read addr) := by
  rw [raDecode_two, if_neg (not_not.mpr rfl)]

/-- A read response is byte for byte a write request (R177) that carries its own checksum. -/
theorem raDecode_raEncode (addr : U8) (value : U32) : raDecode (raEncode addr value) = .ok (.write addr value) := by
  rw [← (raWriteBytes_eq_raEncode_iff addr _ value).mpr rfl, raDecode_raWriteBytes, if_neg (not_not.mpr rfl)]

/-- Settles O40: on what `RA.ENC` returns, and on an address with its own CRC-8, the decoder's checksum test passes. -/
theorem registerFramesRoundTrip : Obligations.RegisterFramesRoundTrip := by
  refine ⟨fun s addr value => ⟨_, _, exec_raEnc addr value s, rfl, ?_⟩, fun s addr => ?_⟩
  · rw [exec_raDec, raDecode_raEncode]
  · rw [exec_raDec, raDecode_two_crc8]

end Sys2Proof.Machine

/-! ## O6: the moves that issue no request -/

namespace Sys2Proof.Machine

/-- A consumer that is listed to move goes on from where it stands. -/
theorem step_of_consumer {s : State} {ms : List Move} (h : s.sched = .agent .consumer :: ms) :
    step s = consumerMove (s.withSched ms) := step_of_sched h

theorem consumerMove_of_waiting (s : State) (h : s.ctl = .waiting) :
    consumerMove s = exec .sigWait (s.withCtl .ready) := by rw [consumerMove, h]

theorem consumerMove_of_stepping (s : State) (h : s.ctl = .stepping) :
    consumerMove s = exec .dspStep (s.withCtl .ready) := by rw [consumerMove, h]

theorem consumerMove_of_last_service (s : State) {b : Bus} (h : s.ctl = .serving [b]) :
    consumerMove s = exec (.dspSvc b) (s.withCtl .ready) := by rw [consumerMove, h]

theorem consumerMove_of_services (s : State) {b c : Bus} {bs : List Bus} (h : s.ctl = .serving (b :: c :: bs)) :
    consumerMove s = exec (.dspSvc b) (s.withCtl (.serving (c :: bs))) := by
  rw [consumerMove, h]

theorem consumerMove_of_idle (s : State) (hctl : s.ctl = .ready) (hqueue : s.queueC = []) :
    consumerMove s = exec .dspStep s := by simp only [consumerMove, hctl, hqueue]

theorem producerMove_of_idle {s : State} {b : Bus} (h : s.queue (.producer b) = []) : producerMove b s = .next s := by
  rw [producerMove, h]

/-- Settles O6: the consumer's moves by its place, an empty list of moves, and a producer without an event. -/
theorem movesWithoutARequest : Obligations.MovesWithoutARequest := by
  refine ⟨fun s ms hsched => ?consumer, fun s hsched => ?nobody, fun s b ms hsched hqueue => ?producer⟩
  case consumer =>
    rw [step_of_consumer hsched]
    exact ⟨consumerMove_of_waiting (s.withSched ms), consumerMove_of_stepping (s.withSched ms),
      fun _ => consumerMove_of_last_service (s.withSched ms), fun _ _ _ => consumerMove_of_services (s.withSched ms),
      consumerMove_of_idle (s.withSched ms)⟩
  case nobody => rw [step, nextMove, hsched]
  case producer =>
    rw [step_of_sched hsched]
    exact producerMove_of_idle ((queue_withSched s _ ms).trans hqueue)

end Sys2Proof.Machine

/-! ## O41 and O43: the operations of a producer -/

namespace Sys2Proof.Machine

/-! ### `RX.BYTE` (43_receiver_handshake.md R192) -/

/-- The channel after a received byte. -/
def RxChan.stored (p : Params) (c : RxChan) (v : U8) : RxChan :=
  { c.setBuf c.wsel (c.fill.write (storeIndex p c).toNat v) with cur := storeIndex p c + 1#8 }

section Stored

variable (p : Params) (c : RxChan) (v : U8)

@[simp] theorem stored_cur : (c.stored p v).cur = storeIndex p c + 1#8 := rfl
@[simp] theorem stored_wsel : (c.stored p v).wsel = c.wsel := by simp [RxChan.stored]
@[simp] theorem stored_flen : (c.stored p v).flen = c.flen := by simp [RxChan.stored]
@[simp] theorem stored_full : (c.stored p v).full = c.full := by simp [RxChan.stored]
@[simp] theorem stored_sig : (c.stored p v).sig = c.sig := by simp [RxChan.stored]
@[simp] theorem stored_latched : (c.stored p v).latched = c.latched := latched_of_stored c _ _
@[simp] theorem stored_fill : (c.stored p v).fill = c.fill.write (storeIndex p c).toNat v := fill_of_stored c _ _

end Stored

/-- The index is `cur`, or 0 when the buffer is full, as a number. -/
theorem storeIndex_toNat (p : Params) (c : RxChan) :
    (storeIndex p c).toNat = if c.cur = p.rxCap then 0 else c.cur.toNat := by
  unfold storeIndex
  split <;> rfl

/-- The cursor is a whole byte: one past an index inside the buffer does not wrap round. -/
theorem stored_cur_toNat {p : Params} {c : RxChan} (v : U8) (hcap : p.rxCap ≠ 0#8)
    (hcur : c.cur.toNat ≤ p.rxCap.toNat) : (c.stored p v).cur.toNat = (storeIndex p c).toNat + 1 := by
  have hindex := storeIndex_lt p c hcap hcur
  rw [stored_cur]
  bv_omega

theorem stored_cur_le {p : Params} {c : RxChan} (v : U8) (hcap : p.rxCap ≠ 0#8)
    (hcur : c.cur.toNat ≤ p.rxCap.toNat) : (c.stored p v).cur.toNat ≤ p.rxCap.toNat := by
  rw [stored_cur_toNat v hcap hcur]
  exact storeIndex_lt p c hcap hcur

theorem exec_rxByte {s : State} {b : Bus} (v : U8) (hcap : s.cfg.rxCap ≠ 0#8)
    (hcur : (s.rx b).cur.toNat ≤ s.cfg.rxCap.toNat) :
    exec (.rxByte b v) s = .next ((s.setRx b ((s.rx b).stored s.cfg v)).finish .none) := by
  have hbyte := (receiveByte_ok_iff b v s _).mpr ⟨hcap, storeIndex_lt s.cfg (s.rx b) hcap hcur, rfl⟩
  rw [exec, execRxByte, hbyte]
  rfl

theorem exec_rxByte_of_no_capacity {s : State} (b : Bus) (v : U8) (hcap : s.cfg.rxCap = 0#8) :
    exec (.rxByte b v) s = .refused .badParameter := by
  simp [exec, execRxByte, receiveByte, hcap, toAnswer]

/-- Settles O41: the byte is stored at the index of R192, and the channel is otherwise as it was. -/
theorem rxByteStoresAtTheCursor : Obligations.RxByteStoresAtTheCursor := by
  refine ⟨fun s b v hcap hcur => ?_, fun s b v hcap => exec_rxByte_of_no_capacity b v hcap⟩
  refine ⟨_, exec_rxByte v hcap hcur, stored_cur _ _ v, stored_wsel _ _ v, stored_flen _ _ v, stored_full _ _ v,
    stored_sig _ _ v, stored_latched _ _ v, ?_, fun j hj => ?_⟩
  · rw [← storeIndex_toNat, stored_fill, read_write_same]
  · rw [← storeIndex_toNat] at hj
    rw [stored_fill, read_write_other _ _ j v hj]

/-! ### `RX.EOF` (R194, R195) -/

theorem exec_rxEof_free {s : State} {b : Bus} (h : (s.rx b).full = false) :
    exec (.rxEof b) s = .next (((s.setRx b { s.rx b with
      flen := (s.rx b).cur, wsel := (s.rx b).wsel.other, full := true, sig := true, cur := 0#8 }).emit
        (.wake b)).finish .none) := by
  rw [exec, execRxEof, endOfFrame_free b s h, handOff]

theorem exec_rxEof_full {s : State} {b : Bus} (h : (s.rx b).full = true) :
    exec (.rxEof b) s = .next (((s.setRx b { s.rx b with cur := 0#8 }).emit (.rxDropped b)).finish .none) := by
  rw [exec, execRxEof, endOfFrame_full b s h, overrun]

/-- Settles O43: `full` says whether the frame is handed off or dropped. -/
theorem rxEofHandsOffOrDrops : Obligations.RxEofHandsOffOrDrops :=
  ⟨fun _ _ => exec_rxEof_free, fun _ _ => exec_rxEof_full⟩

end Sys2Proof.Machine

/-! ## O44 to O47: the operations of the consumer -/

namespace Sys2Proof.Machine

/-! ### `SIG.WAIT` (43_receiver_handshake.md R197) -/

theorem exec_sigWait_of_signal {s : State} (h : s.rx0.sig = true ∨ s.rx1.sig = true) :
    exec .sigWait s = .next ((s.clearSignals.withCtl .ready).finish (.wait (.signalled s.sigMask))) := by
  rw [exec, execSigWait, waitSignal_of_signal s h]

/-- With no bit set the free choice decides between the time-out and the suspension (log entry 13). -/
theorem exec_sigWait_of_none {s : State} (h0 : s.rx0.sig = false) (h1 : s.rx1.sig = false) :
    ∃ timesOut e,
      exec .sigWait s = .next (if timesOut
        then { s with env := e, ctl := .ready, result := .wait .timeout }
        else { s with env := e, ctl := .waiting, result := .pending }) ∧
      ∀ x xs, s.env.timeouts = x :: xs → timesOut = x ∧ e = { s.env with timeouts := xs } := by
  obtain ⟨timesOut, e, hwait, hlisted⟩ := waitSignal_of_none s h0 h1
  refine ⟨timesOut, e, ?_, hlisted⟩
  rw [exec, execSigWait, hwait]
  cases timesOut <;> rfl

/-- Settles O44: the mask holds the two signal bits; with neither set, the outcome is that of the free choice. -/
theorem sigWaitReturnsTheBitsOrWaits : Obligations.SigWaitReturnsTheBitsOrWaits := by
  refine ⟨fun s hsig => ?signalled, fun s h0 h1 => ?none⟩
  case signalled =>
    refine ⟨s.sigMask, fun hzero => ?_, sigMask_bit0 s, sigMask_bit1 s, exec_sigWait_of_signal hsig⟩
    obtain ⟨h0, h1⟩ := (sigMask_zero_iff s).mp hzero
    simp [h0, h1] at hsig
  case none =>
    obtain ⟨timesOut, e, hexec, hlisted⟩ := exec_sigWait_of_none h0 h1
    refine ⟨⟨e, ?_⟩, fun ts hts => ?_, fun ts hts => ?_⟩
    · cases timesOut with
      | true => exact .inl hexec
      | false => exact .inr hexec
    · obtain ⟨rfl, rfl⟩ := hlisted true ts hts
      exact hexec
    · obtain ⟨rfl, rfl⟩ := hlisted false ts hts
      exact hexec

/-! ### Ownership (R198) -/

theorem owned_eq_false_iff (s : State) (b : Bus) :
    s.owned b = false ↔ (s.rx b).full = false ∨ (s.rx b).sig = true := by
  rw [← Bool.not_eq_true, owned_iff, not_and_or, Bool.not_eq_true, Bool.not_eq_false]

/-! ### `RX.RD` (R198) -/

theorem exec_rxRd_of_ok {s : State} {b : Bus} {i v : U8} (h : readLatched b i s = .ok v) :
    exec (.rxRd b i) s = .next (s.finish (.byte v)) := by
  rw [exec, execRxRd, h, toAnswer]

theorem exec_rxRd_of_refused {s : State} {b : Bus} {i : U8} {r : Refusal}
    (h : readLatched b i s = .error (.refused r)) : exec (.rxRd b i) s = .refused r := by
  rw [exec, execRxRd, h, toAnswer]

theorem readLatched_of_holds {s : State} {b : Bus} {i v : U8} {frame : List U8} (howned : s.owned b = true)
    (hframe : s.HoldsFrame b frame) (hv : frame[i.toNat]? = some v) : readLatched b i s = .ok v := by
  obtain ⟨hflen, hcap, hbytes⟩ := hframe
  obtain ⟨hi, -⟩ := List.getElem?_eq_some_iff.mp hv
  exact (readLatched_ok_iff b i v s).mpr ⟨howned, by omega, by omega, (hbytes _ hi).trans hv⟩

theorem readLatched_not_owned {s : State} {b : Bus} (i : U8) (h : s.owned b = false) :
    readLatched b i s = .error (.refused .rxNotOwned) := by
  simp [readLatched, h]

theorem readLatched_past_end {s : State} {b : Bus} {i : U8} (howned : s.owned b = true)
    (hi : (s.rx b).flen.toNat ≤ i.toNat) : readLatched b i s = .error (.refused .rxIndex) := by
  simp [readLatched, howned, hi]

/-- Settles O45: an owned frame's byte, or the refusal that ownership or the length calls for. -/
theorem rxRdReadsTheLatchedByte : Obligations.RxRdReadsTheLatchedByte := by
  refine ⟨fun s b i frame v hfull hsig hframe hv => ?byte, fun s b i hnot => ?notOwned, fun s b i hfull hsig hi => ?past⟩
  case byte => exact exec_rxRd_of_ok (readLatched_of_holds ((owned_iff s b).mpr ⟨hfull, hsig⟩) hframe hv)
  case notOwned => exact exec_rxRd_of_refused (readLatched_not_owned i ((owned_eq_false_iff s b).mpr hnot))
  case past => exact exec_rxRd_of_refused (readLatched_past_end ((owned_iff s b).mpr ⟨hfull, hsig⟩) hi)

/-! ### `RX.REL` (R199) -/

theorem exec_rxRel_of_owned {s : State} {b : Bus} (h : s.owned b = true) :
    exec (.rxRel b) s = .next ((s.release b).finish .none) := by
  rw [exec, execRxRel, if_pos h]

theorem exec_rxRel_not_owned {s : State} {b : Bus} (h : s.owned b = false) :
    exec (.rxRel b) s = .refused .rxNotOwned := by
  rw [exec, execRxRel, if_neg (by simp [h])]

/-- Settles O46: ownership decides. -/
theorem rxRelReleasesTheBuffer : Obligations.RxRelReleasesTheBuffer :=
  ⟨fun s b hfull hsig => exec_rxRel_of_owned ((owned_iff s b).mpr ⟨hfull, hsig⟩),
    fun s b hnot => exec_rxRel_not_owned ((owned_eq_false_iff s b).mpr hnot)⟩

/-! ### `RX.TAKE` (R200) -/

theorem exec_rxTake_of_holds {s : State} {b : Bus} {frame : List U8} (howned : s.owned b = true)
    (hframe : s.HoldsFrame b frame) :
    exec (.rxTake b) s = .next ((s.release b).finish (.taken frame)) :=
  (execRxTake_next_iff b s _).mpr ⟨frame, _, takeFrame_of_holds b s frame howned hframe, rfl⟩

theorem exec_rxTake_not_owned {s : State} {b : Bus} (h : s.owned b = false) :
    exec (.rxTake b) s = .refused .rxNotOwned := by
  rw [exec, execRxTake, takeFrame_not_owned b s h, toAnswer]

/-- Settles O47: the copy returns the frame the reads give byte by byte, and its release is that of `RX.REL`. -/
theorem rxTakeCopiesAndReleases : Obligations.RxTakeCopiesAndReleases := by
  refine ⟨fun s b frame hfull hsig hframe => ?owned, fun s b hnot => ?notOwned⟩
  case owned =>
    have howned := (owned_iff s b).mpr ⟨hfull, hsig⟩
    exact ⟨exec_rxTake_of_holds howned hframe,
      fun i v hv => exec_rxRd_of_ok (readLatched_of_holds howned hframe hv), exec_rxRel_of_owned howned⟩
  case notOwned => exact exec_rxTake_not_owned ((owned_eq_false_iff s b).mpr hnot)

end Sys2Proof.Machine

/-! ## O42: where the receive cursor stands

A run of received bytes is the fold of `RxChan.stored` over them, so that what it leaves is a fact about the channel
alone. -/

namespace Sys2Proof.Machine

theorem execAll_cons_of_next {i : Instr} {s t : State} (rest : List Instr) (h : exec i s = .next t) :
    execAll (i :: rest) s = execAll rest t := by
  rw [execAll, h]

theorem execAll_append_of_next {is : List Instr} {s t : State} (js : List Instr) (h : execAll is s = .next t) :
    execAll (is ++ js) s = execAll js t := by
  induction is generalizing s with
  | nil => cases h; rfl
  | cons i is ih =>
    rw [execAll] at h
    cases hi : exec i s with
    | next u => rw [hi] at h; rw [List.cons_append, execAll_cons_of_next _ hi, ih h]
    | fault f => simp [hi] at h
    | refused r => simp [hi] at h

/-- Received bytes all complete and touch their own channel only. -/
theorem execAll_rxBytes {s : State} {b : Bus} (bytes : List U8) (hcap : s.cfg.rxCap ≠ 0#8)
    (hcur : (s.rx b).cur.toNat ≤ s.cfg.rxCap.toNat) :
    ∃ r, execAll (bytes.map (.rxByte b)) s =
      .next ((s.setRx b (bytes.foldl (RxChan.stored s.cfg) (s.rx b))).finish r) := by
  induction bytes generalizing s with
  | nil => exact ⟨s.result, by rw [List.foldl_nil, setRx_self]; rfl⟩
  | cons v bytes ih =>
    have hfirst := exec_rxByte v hcap hcur
    obtain ⟨r, hrest⟩ := ih (s := (s.setRx b ((s.rx b).stored s.cfg v)).finish .none) (by simpa using hcap)
      (by simpa using stored_cur_le v hcap hcur)
    refine ⟨r, ?_⟩
    rw [List.map_cons, execAll_cons_of_next _ hfirst, hrest]
    simp [setRx_finish_comm]

/-- The cursor after `m` bytes since the last end of frame, with a buffer of `cap` bytes (R193). -/
def cursorAfter (cap m : Nat) : Nat := if m ≤ cap then m else (m - 1) % cap + 1

theorem cursorAfter_le {cap : Nat} (hcap : 0 < cap) (m : Nat) : cursorAfter cap m ≤ cap := by
  have := Nat.mod_lt (m - 1) hcap
  unfold cursorAfter
  split <;> omega

/-- From the first byte on, the two cases of R193 are one formula. -/
theorem cursorAfter_succ_eq_mod (cap m : Nat) : cursorAfter cap (m + 1) = m % cap + 1 := by
  unfold cursorAfter
  split
  · rw [Nat.mod_eq_of_lt (by omega)]
  · rfl

/-- One byte moves the cursor by one, or back to 1 from a full buffer (R192). -/
theorem cursorAfter_succ {cap : Nat} (hcap : 0 < cap) (m : Nat) :
    cursorAfter cap (m + 1) = (if cursorAfter cap m = cap then 0 else cursorAfter cap m) + 1 := by
  cases m with
  | zero =>
    have hzero : cursorAfter cap 0 = 0 := rfl
    rw [cursorAfter_succ_eq_mod, hzero, Nat.zero_mod, ite_self]
  | succ k =>
    rw [cursorAfter_succ_eq_mod, cursorAfter_succ_eq_mod]
    have hlt := Nat.mod_lt k hcap
    split
    · next heq => rw [← Nat.mod_add_mod, heq, Nat.mod_self]
    · next hne => rw [← Nat.mod_add_mod, Nat.mod_eq_of_lt (by omega)]

theorem foldl_stored_cur {p : Params} {c : RxChan} (bytes : List U8) (m : Nat) (hcap : p.rxCap ≠ 0#8)
    (hcur : c.cur.toNat = cursorAfter p.rxCap.toNat m) :
    (bytes.foldl (RxChan.stored p) c).cur.toNat = cursorAfter p.rxCap.toNat (m + bytes.length) := by
  have hpos : 0 < p.rxCap.toNat := by bv_omega
  induction bytes generalizing c m with
  | nil => exact hcur
  | cons v bytes ih =>
    have hle : c.cur.toNat ≤ p.rxCap.toNat := hcur ▸ cursorAfter_le hpos m
    have hnext : (c.stored p v).cur.toNat = cursorAfter p.rxCap.toNat (m + 1) := by
      simp only [stored_cur_toNat v hcap hle, storeIndex_toNat, cursorAfter_succ hpos, ← hcur, BitVec.toNat_inj]
    rw [List.foldl_cons, ih (m + 1) hnext, List.length_cons, Nat.add_right_comm, Nat.add_assoc]

/-- Settles O42: the cursor of the fold, from 0. -/
theorem receiveCursorWrapsAtCapacity : Obligations.ReceiveCursorWrapsAtCapacity := by
  intro s b bytes hcap hcur
  obtain ⟨r, hrun⟩ := execAll_rxBytes bytes hcap (b := b) (by simp [hcur])
  refine ⟨_, hrun, ?_⟩
  rw [finish_rx, rx_setRx, foldl_stored_cur bytes 0 hcap (by simp [hcur, cursorAfter]), Nat.zero_add, cursorAfter]

end Sys2Proof.Machine

/-! ## O48: what is taken is what was received

The bytes fill the buffer from 0 up, the end of frame makes the filled buffer the latched one, and from then on no
producer touches a latched buffer until it is released (43_receiver_handshake.md R203, 20_memory.md R64). -/

namespace Sys2Proof.Machine

/-! ### The channel while a frame fills and after it is handed off -/

/-- The bytes of the frame in progress, none of which has been overwritten. -/
structure RxChan.Filled (c : RxChan) (frame : List U8) : Prop where
  cur : c.cur.toNat = frame.length
  bytes : ∀ i, i < frame.length → c.fill.read i = frame[i]?

/-- A handed-off frame whose signal the consumer has still to take. -/
structure RxChan.HandedOff (c : RxChan) (frame : List U8) : Prop where
  full : c.full = true
  sig : c.sig = true
  flen : c.flen.toNat = frame.length
  bytes : ∀ i, i < frame.length → c.latched.read i = frame[i]?

theorem RxChan.Filled.of_cur_zero {c : RxChan} (h : c.cur = 0#8) : c.Filled [] :=
  ⟨by simp [h], nofun⟩

/-- While there is room, a byte goes right behind those already there. -/
theorem RxChan.Filled.stored {p : Params} {c : RxChan} {frame : List U8} (h : c.Filled frame) (v : U8)
    (hcap : p.rxCap ≠ 0#8) (hroom : frame.length < p.rxCap.toNat) : (c.stored p v).Filled (frame ++ [v]) := by
  obtain ⟨hcur, hbytes⟩ := h
  have hne : c.cur ≠ p.rxCap := by rintro heq; rw [heq] at hcur; omega
  have hindex : (storeIndex p c).toNat = frame.length := by rw [storeIndex_toNat, if_neg hne, hcur]
  refine ⟨?_, fun i hi => ?_⟩
  · rw [stored_cur_toNat v hcap (by omega), hindex, List.length_append, List.length_singleton]
  · rw [stored_fill, hindex, read_write]
    split
    · next heq => simp [heq]
    · have hlt : i < frame.length := by simp at hi; omega
      rw [hbytes i hlt, List.getElem?_append_left hlt]

theorem RxChan.Filled.foldl_stored {p : Params} {c : RxChan} {frame : List U8} (h : c.Filled frame)
    (bytes : List U8) (hcap : p.rxCap ≠ 0#8) (hroom : frame.length + bytes.length ≤ p.rxCap.toNat) :
    (bytes.foldl (RxChan.stored p) c).Filled (frame ++ bytes) := by
  induction bytes generalizing c frame with
  | nil => rwa [List.append_nil]
  | cons v bytes ih =>
    rw [List.length_cons] at hroom
    rw [List.foldl_cons, List.append_cons]
    exact ih (h.stored v hcap (by omega)) (by simp; omega)

theorem foldl_stored_full (p : Params) (c : RxChan) (bytes : List U8) :
    (bytes.foldl (RxChan.stored p) c).full = c.full := by
  induction bytes generalizing c with
  | nil => rfl
  | cons v bytes ih => rw [List.foldl_cons, ih, stored_full]

/-- The end of a frame in a free channel (R194). -/
theorem RxChan.Filled.handOff {c : RxChan} {frame : List U8} (h : c.Filled frame) :
    RxChan.HandedOff { c with flen := c.cur, wsel := c.wsel.other, full := true, sig := true, cur := 0#8 } frame :=
  ⟨rfl, rfl, h.cur, by rw [latched_of_handed]; exact h.bytes⟩

/-- The bytes of the next frame go to the other buffer. -/
theorem RxChan.HandedOff.stored {c : RxChan} {frame : List U8} (h : c.HandedOff frame) (p : Params) (v : U8) :
    (c.stored p v).HandedOff frame :=
  ⟨by simp [h.full], by simp [h.sig], by simp [h.flen], by simpa using h.bytes⟩

/-- The next frame is dropped at its end (R195). -/
theorem RxChan.HandedOff.restart {c : RxChan} {frame : List U8} (h : c.HandedOff frame) :
    RxChan.HandedOff { c with cur := 0#8 } frame :=
  ⟨h.full, h.sig, h.flen, by rw [latched_of_restarted]; exact h.bytes⟩

/-! ### Any operations of the two producers -/

/-- What producer operations keep: the parameters in range, both cursors inside their buffers, and the frame handed off on
bus `b`. -/
structure State.FrameWaits (s : State) (b : Bus) (frame : List U8) : Prop where
  cap : s.cfg.rxCap ≠ 0#8
  cursors : ∀ c, (s.rx c).cur.toNat ≤ s.cfg.rxCap.toNat
  fits : frame.length ≤ s.cfg.rxCap.toNat
  frame : (s.rx b).HandedOff frame

namespace State.FrameWaits

variable {s : State} {b : Bus} {frame : List U8}

theorem finish (h : s.FrameWaits b frame) (r : Result) : (s.finish r).FrameWaits b frame :=
  ⟨h.cap, fun c => by rw [finish_rx]; exact h.cursors c, h.fits, by rw [finish_rx]; exact h.frame⟩

theorem emit (h : s.FrameWaits b frame) (e : Event) : (s.emit e).FrameWaits b frame :=
  ⟨h.cap, fun c => by rw [emit_rx]; exact h.cursors c, h.fits, by rw [emit_rx]; exact h.frame⟩

/-- A channel replaced by one with a legal cursor that holds the frame if it is the channel of bus `b`. -/
theorem setRx (h : s.FrameWaits b frame) {c : Bus} {d : RxChan} (hcur : d.cur.toNat ≤ s.cfg.rxCap.toNat)
    (hframe : c = b → d.HandedOff frame) : (s.setRx c d).FrameWaits b frame := by
  refine ⟨by rw [setRx_cfg]; exact h.cap, fun e => ?_, by rw [setRx_cfg]; exact h.fits, ?_⟩
  · rw [setRx_cfg]
    obtain rfl | rfl := eq_or_eq_other c e
    · rwa [rx_setRx]
    · rw [rx_setRx_other]; exact h.cursors _
  · by_cases hc : c = b
    · subst hc; rw [rx_setRx]; exact hframe rfl
    · rw [rx_setRx_of_ne s c b d (Ne.symm hc)]; exact h.frame

theorem exists_exec_rxByte (h : s.FrameWaits b frame) (c : Bus) (v : U8) :
    ∃ t, exec (.rxByte c v) s = .next t ∧ t.FrameWaits b frame :=
  ⟨_, exec_rxByte v h.cap (h.cursors c),
    (h.setRx (stored_cur_le v h.cap (h.cursors c)) (by rintro rfl; exact h.frame.stored _ v)).finish _⟩

/-- An end of frame on bus `b` is of a later frame, which is dropped; one on the other bus leaves bus `b` alone. -/
theorem exists_exec_rxEof (h : s.FrameWaits b frame) (c : Bus) :
    ∃ t, exec (.rxEof c) s = .next t ∧ t.FrameWaits b frame := by
  cases hfull : (s.rx c).full with
  | true =>
    exact ⟨_, exec_rxEof_full hfull,
      ((h.setRx (Nat.zero_le _) (by rintro rfl; exact h.frame.restart)).emit _).finish _⟩
  | false =>
    have hne : c ≠ b := by rintro rfl; simp [h.frame.full] at hfull
    exact ⟨_, exec_rxEof_free hfull, ((h.setRx (Nat.zero_le _) (absurd · hne)).emit _).finish _⟩

theorem exists_exec_producerOp (h : s.FrameWaits b frame) {i : Instr} (hi : isProducerOp i = true) :
    ∃ t, exec i s = .next t ∧ t.FrameWaits b frame := by
  cases i with
  | rxByte c v => exact h.exists_exec_rxByte c v
  | rxEof c => exact h.exists_exec_rxEof c
  | _ => cases hi

theorem exists_execAll_producerOps (h : s.FrameWaits b frame) {later : List Instr}
    (hlater : ∀ i ∈ later, isProducerOp i = true) :
    ∃ t, execAll later s = .next t ∧ t.FrameWaits b frame := by
  induction later generalizing s with
  | nil => exact ⟨s, rfl, h⟩
  | cons i later ih =>
    obtain ⟨u, hfirst, hu⟩ := h.exists_exec_producerOp (hlater i List.mem_cons_self)
    obtain ⟨t, hrest, ht⟩ := ih hu fun j hj => hlater j (List.mem_cons_of_mem i hj)
    exact ⟨t, (execAll_cons_of_next later hfirst).trans hrest, ht⟩

/-- The wait gives the consumer the waiting frame, and the copy returns it (R197, R200). -/
theorem exists_exec_wait_take (h : s.FrameWaits b frame) :
    ∃ u w, exec .sigWait s = .next u ∧ exec (.rxTake b) u = .next w ∧ w.result = .taken frame := by
  obtain ⟨hfull, hsig, hflen, hbytes⟩ := h.frame
  have hsome : s.rx0.sig = true ∨ s.rx1.sig = true := by
    cases b with
    | bus0 => exact .inl hsig
    | bus1 => exact .inr hsig
  refine ⟨_, _, exec_sigWait_of_signal hsome, exec_rxTake_of_holds ((owned_iff _ b).mpr ?_) ?_, rfl⟩
  · rw [finish_rx, withCtl_rx, clearSignals_rx]
    exact ⟨hfull, rfl⟩
  · rw [State.HoldsFrame, finish_rx, withCtl_rx, clearSignals_rx, latched_of_unsignalled]
    exact ⟨hflen, h.fits, hbytes⟩

end State.FrameWaits

/-- A whole frame received into a free channel waits for the consumer (R192, R194). -/
theorem exists_execAll_frame_waits {s : State} {b : Bus} {bytes : List U8} (hcap : s.cfg.rxCap ≠ 0#8)
    (hcursors : ∀ c, (s.rx c).cur.toNat ≤ s.cfg.rxCap.toNat) (hcur : (s.rx b).cur = 0#8)
    (hfull : (s.rx b).full = false) (hfits : bytes.length ≤ s.cfg.rxCap.toNat) :
    ∃ t, execAll (bytes.map (.rxByte b) ++ [.rxEof b]) s = .next t ∧ t.FrameWaits b bytes := by
  obtain ⟨r, hbytes⟩ := execAll_rxBytes bytes hcap (hcursors b)
  have hfilled := (RxChan.Filled.of_cur_zero hcur).foldl_stored bytes hcap (by simpa using hfits)
  have hfree : (((s.setRx b (bytes.foldl (RxChan.stored s.cfg) (s.rx b))).finish r).rx b).full = false := by
    rw [finish_rx, rx_setRx, foldl_stored_full, hfull]
  refine ⟨_, (execAll_append_of_next _ hbytes).trans (execAll_cons_of_next [] (exec_rxEof_free hfree)),
    by simpa using hcap, fun c => ?_, by simpa using hfits, by simpa using hfilled.handOff⟩
  obtain rfl | rfl := eq_or_eq_other b c
  · simp
  · simpa using hcursors _

/-- Settles O48: the frame is received, waits through the later operations, and is taken. -/
theorem takenFrameIsWhatWasReceived : Obligations.TakenFrameIsWhatWasReceived := by
  intro s b bytes later hinv hcur hfull hfits hlater
  have hcursors (c : Bus) : (s.rx c).cur.toNat ≤ s.cfg.rxCap.toNat := by
    obtain ⟨-, -, h, -⟩ := (State.PartsSound.of_inv hinv).rx c
    exact h
  obtain ⟨hcap, -⟩ := hinv
  obtain ⟨s1, hreceive, hs1⟩ := exists_execAll_frame_waits hcap hcursors hcur hfull hfits
  obtain ⟨t, hrest, ht⟩ := hs1.exists_execAll_producerOps hlater
  obtain ⟨u, w, hwait, htake, hresult⟩ := ht.exists_exec_wait_take
  exact ⟨t, u, w, (execAll_append_of_next later hreceive).trans hrest, hwait, htake, hresult⟩

end Sys2Proof.Machine

/-! ## O60, O14 and O52 to O56: the service of a frame

The first part says what `DSP.SVC` is of an owned frame that is known: the release of its buffer, then the path of the
bus's codec. The others follow the two paths from there. -/

namespace Sys2Proof.Machine

/-! ### A frame taken and served (44_dispatch.md R222) -/

/-- An owned frame that is known is served after the release of its buffer. -/
theorem exec_dspSvc_of_holds {s t : State} {b : Bus} {frame : List U8} (hfull : (s.rx b).full = true)
    (hsig : (s.rx b).sig = false) (hframe : s.HoldsFrame b frame)
    (hserve : serveFrame b frame (s.setRx b (s.rx b).released) = .ok t) :
    exec (.dspSvc b) s = .next (t.finish .none) :=
  (execDspSvc_next_iff b s _).mpr
    ⟨frame, _, t, takeFrame_of_holds b s frame ((owned_iff s b).mpr ⟨hfull, hsig⟩) hframe, hserve, rfl⟩

/-- The register path takes the frame of a Register-Access bus (R223). -/
theorem exec_dspSvc_ra {s : State} {b : Bus} {frame : List U8} (hcodec : codecOf s.cfg b = .ra)
    (hfull : (s.rx b).full = true) (hsig : (s.rx b).sig = false) (hframe : s.HoldsFrame b frame) :
    exec (.dspSvc b) s = .next ((registerPath b frame (s.setRx b (s.rx b).released)).finish .none) :=
  exec_dspSvc_of_holds hfull hsig hframe (by simp [serveFrame, hcodec])

/-- On an Addressed-Packet bus the outcomes that `AP.DEC` gives for the bytes of the frame are acted on (R226). -/
theorem exec_dspSvc_actsOn {s u : State} {b : Bus} {frame : List U8} {os : List ApOutcome}
    (hcodec : codecOf s.cfg b = .ap) (hfull : (s.rx b).full = true) (hsig : (s.rx b).sig = false)
    (hframe : s.HoldsFrame b frame) (hfeed : feedAp b frame s = some (os, u)) :
    ∃ t, exec (.dspSvc b) s = .next (t.finish .none) ∧ (s.setRx b (s.rx b).released).ActsOn b os (u.ap b) t := by
  obtain ⟨t, hpath, ht⟩ := packetPath_actsOn (s' := s.setRx b (s.rx b).released) (setRx_cfg s b _) (ap_setRx s b b _)
    hfeed
  exact ⟨t, exec_dspSvc_of_holds hfull hsig hframe (by simp [serveFrame, hcodec, hpath]), ht⟩

/-! ### Every outcome of a raw frame (R226) -/

/-- Every byte has its one outcome. -/
theorem feedAp_length {b : Bus} {bytes : List U8} {s u : State} {os : List ApOutcome}
    (h : feedAp b bytes s = some (os, u)) : os.length = bytes.length := by
  induction bytes generalizing s os with
  | nil => cases h; rfl
  | cons byte rest ih =>
    obtain ⟨-, o, s1, os', -, hrest, rfl⟩ := (feedAp_cons_iff b byte rest s u os).mp h
    rw [List.length_cons, List.length_cons, ih hrest]

/-- Settles O60: a sound decoder takes the bytes, and the packet path acts on the outcomes they give. -/
theorem dspSvcActsOnEveryOutcome : Obligations.DspSvcActsOnEveryOutcome := by
  intro s b frame hcodec hfull hsig hframe hsound
  obtain ⟨os, u, hfeed⟩ := feedAp_of_sound frame hcodec hsound
  obtain ⟨t, hexec, hacts⟩ := exec_dspSvc_actsOn hcodec hfull hsig hframe hfeed
  exact ⟨os, u, _, hfeed, feedAp_length hfeed, hexec, hacts.servesOutcomes⟩

/-! ### A service owed (R221, R222) -/

/-- On sound parts the service of an owned frame goes through: its bytes are written, and its decoder takes them. -/
theorem exists_exec_dspSvc {s : State} {b : Bus} (hparts : s.PartsSound) (howned : s.owned b = true) :
    ∃ t, exec (.dspSvc b) s = .next t := by
  obtain ⟨-, -, -, -, hflen, -, hlatched⟩ := hparts.rx b
  obtain ⟨hfull, -⟩ := (owned_iff s b).mp howned
  obtain ⟨frame, htake⟩ := takeFrame_of_written b s howned (hflen hfull) (hlatched hfull)
  obtain ⟨t, hserve⟩ := serveFrame_of_sound frame (b := b) (s := s.release b) (by simpa using hparts.ap b)
  exact ⟨_, (execDspSvc_next_iff b s _).mpr ⟨frame, _, t, htake, hserve, rfl⟩⟩

/-- A consumer that owes services does the first of them, from a state that differs in its place alone. -/
theorem exists_consumerMove_of_serving {s : State} {b : Bus} {bs : List Bus} (hctl : s.ctl = .serving (b :: bs)) :
    ∃ c, consumerMove s = exec (.dspSvc b) (s.withCtl c) := by
  cases bs with
  | nil => exact ⟨_, consumerMove_of_last_service s hctl⟩
  | cons c bs => exact ⟨_, consumerMove_of_services s hctl⟩

/-- Settles O14: by the invariant a service owed is of an owned frame. -/
theorem owedServiceIsNeverRefused : Obligations.OwedServiceIsNeverRefused := by
  intro s ms b bs hinv hsched hctl
  obtain ⟨-, hparts, -, -, howned⟩ := (inv_iff s).mp hinv
  have hb : s.owned b = true := howned b (by rw [hctl]; exact List.mem_cons_self)
  obtain ⟨c, hmove⟩ := exists_consumerMove_of_serving (s := s.withSched ms) hctl
  rw [step_of_consumer hsched, hmove]
  exact exists_exec_dspSvc ((hparts.withSched ms).withCtl c)
    ((owned_congr ((withCtl_rx _ c b).trans (withSched_rx s ms b))).trans hb)

/-! ### The Register-Access path (R223) -/

/-- Settles O52: the frame decodes to a READ. -/
theorem dspSvcAnswersAReadRequest : Obligations.DspSvcAnswersAReadRequest := by
  intro s b addr hcodec hfull hsig hframe
  obtain ⟨answer, e, hlisted, hserve⟩ := serveRead_spec b addr (s.setRx b (s.rx b).released)
  rw [setRx_env] at hlisted
  rw [setRx_calls, setRx_events] at hserve
  refine ⟨answer, e, hlisted, ?_⟩
  rw [exec_dspSvc_ra hcodec hfull hsig hframe, registerPath_of_read b _ (raDecode_two_crc8 addr), hserve]
  cases answer <;> rfl

/-- Settles O53: the frame decodes to a WRITE. -/
theorem dspSvcServesAWriteRequest : Obligations.DspSvcServesAWriteRequest := by
  intro s b addr value hcodec hfull hsig hframe
  obtain ⟨answer, e, hlisted, hserve⟩ := serveWrite_spec b addr value (s.setRx b (s.rx b).released)
  rw [setRx_env] at hlisted
  rw [setRx_calls, setRx_events] at hserve
  refine ⟨answer, e, hlisted, ?_⟩
  rw [exec_dspSvc_ra hcodec hfull hsig hframe, registerPath_of_write b _ (raDecode_raEncode addr value), hserve]
  cases b <;> cases answer <;> rfl

/-! ### Outcomes without a packet (R226, R227) -/

theorem outcomeRegop_of_no_ready (p : Params) {os : List ApOutcome} (h : ∀ packet, .ready packet ∉ os) :
    os.filterMap (outcomeRegop p) = [] := by
  refine List.filterMap_eq_nil_iff.mpr fun o ho => ?_
  cases o with
  | ready packet => exact absurd ho (h packet)
  | notReady | invalid | wrongAddress | error => rfl

theorem packetEvents_of_no_ready (p : Params) (b : Bus) {os : List ApOutcome} (calls : List RegCall)
    (h : ∀ packet, .ready packet ∉ os) : packetEvents p b os calls = os.filterMap (failureLog b) := by
  induction os with
  | nil => rfl
  | cons o os ih =>
    have hrest := ih fun packet hmem => h packet (List.mem_cons_of_mem o hmem)
    cases o with
    | ready packet => exact absurd List.mem_cons_self (h packet)
    | notReady | invalid | wrongAddress | error => simp [packetEvents, failureLog, List.filterMap_cons, hrest]

/-- Without a READY outcome nothing is called and nothing is drawn, and the errors are logged. -/
theorem State.ActsOn.failures {s t : State} {b : Bus} {os : List ApOutcome} {d : ApDec} (h : s.ActsOn b os d t)
    (hready : ∀ packet, .ready packet ∉ os) :
    t = { s.setAp b d with events := s.events ++ os.filterMap (failureLog b) } := by
  obtain ⟨calls, e, hops, -, hnone, rfl⟩ := h
  rw [outcomeRegop_of_no_ready s.cfg hready] at hops
  obtain rfl := List.map_eq_nil_iff.mp hops
  rw [packetEvents_of_no_ready s.cfg b [] hready, hnone rfl, List.append_nil]
  cases b <;> rfl

/-- Settles O54: the register path logs the kind of the FrameError, the packet path the errors among the outcomes. -/
theorem dspSvcDropsAFrameThatDoesNotDecode : Obligations.DspSvcDropsAFrameThatDoesNotDecode := by
  refine ⟨fun s b frame k hcodec hfull hsig hframe hdecode => ?ra,
    fun s b frame hcodec hfull hsig hframe hsound => ?ap⟩
  case ra => rw [exec_dspSvc_ra hcodec hfull hsig hframe, registerPath_of_frameError b _ hdecode]
  case ap =>
    obtain ⟨os, u, hfeed⟩ := feedAp_of_sound frame hcodec hsound
    obtain ⟨t, hexec, hacts⟩ := exec_dspSvc_actsOn hcodec hfull hsig hframe hfeed
    refine ⟨os, u, hfeed, fun hready => ?_⟩
    rw [hexec, hacts.failures hready, setRx_events]
    rfl

/-! ### One packet (R226) -/

theorem eq_of_drawnFrom_cons {α : Type} {a x : α} {xs rest : List α} (h : DrawnFrom [a] (x :: xs) rest) : a = x := by
  simpa using h.1

theorem RegCall.exists_eq_read {c : RegCall} {addr : U8} (h : c.op = .read addr) :
    ∃ answer, c = .read addr answer := by
  cases c with
  | read a answer => cases h; exact ⟨answer, rfl⟩
  | write a v answer => cases h

theorem RegCall.exists_eq_write {c : RegCall} {addr : U8} {value : U32} (h : c.op = .write addr value) :
    ∃ answer, c = .write addr value answer := by
  cases c with
  | read a answer => cases h
  | write a v answer => cases h; exact ⟨answer, rfl⟩

/-- A packet that `AP_REGOP` maps to an operation is reported, its one register call is made, and the log of a failed
call and the response follow. -/
theorem State.ActsOn.packetCalled {s t : State} {b : Bus} {n : Nat} {packet : Packet} {op : RegOp} {d : ApDec}
    (h : s.ActsOn b (List.replicate n .notReady ++ [.ready packet]) d t)
    (hregop : s.cfg.apRegop.lookup packet = some op) :
    ∃ c e, c.op = op ∧ CallsDrawnFrom [c] s.env e ∧
      t = { s.setAp b d with
        env := e, calls := s.calls ++ [c],
        events := s.events ++ [.packetReady b packet] ++ callLog b c ++ responseOf s.cfg b packet c.answer } := by
  obtain ⟨calls, e, hops, hdrawn, -, rfl⟩ := h
  rw [outcomeRegop_replicate_notReady] at hops
  obtain ⟨c, rfl, hop⟩ : ∃ c, calls = [c] ∧ c.op = op := by
    simpa [outcomeRegop, hregop, List.map_eq_singleton_iff] using hops
  refine ⟨c, e, hop, hdrawn, ?_⟩
  rw [packetEvents_replicate_notReady]
  simp [packetEvents, hregop]

/-- Settles O55: the bytes end in READY with the packet, which is acted on as `AP_REGOP` says. -/
theorem dspSvcReportsAPacket : Obligations.DspSvcReportsAPacket := by
  rintro s b src typ payload packet hcodec hpos hfull hsig hlen rfl hframe
  obtain ⟨u, hfeed, hu⟩ := feedAp_apFrameBytes src typ (frameCrc16 s.cfg src s.cfg.nodeAddr typ payload) hcodec hpos
    hlen (.inr rfl)
  rw [frameOutcome_of_valid] at hfeed
  obtain ⟨t, hexec, hacts⟩ := exec_dspSvc_actsOn hcodec hfull hsig hframe hfeed
  refine ⟨u.ap b, hu, fun hregop => ?unmapped, fun addr hregop => ?read, fun addr value hregop => ?write⟩
  case unmapped => rw [hexec, hacts.packetReady (by rwa [setRx_cfg])]
  case read =>
    obtain ⟨c, e, hop, ⟨hreads, -⟩, rfl⟩ := hacts.packetCalled (by rwa [setRx_cfg])
    obtain ⟨answer, rfl⟩ := RegCall.exists_eq_read hop
    rw [setRx_env] at hreads
    refine ⟨answer, e, fun r rs hlisted => eq_of_drawnFrom_cons (hlisted ▸ hreads), ?_⟩
    rw [hexec, setRx_calls, setRx_events, setRx_cfg]
    cases answer <;> rfl
  case write =>
    obtain ⟨c, e, hop, ⟨-, hwrites, -⟩, rfl⟩ := hacts.packetCalled (by rwa [setRx_cfg])
    obtain ⟨answer, rfl⟩ := RegCall.exists_eq_write hop
    rw [setRx_env] at hwrites
    refine ⟨answer, e, fun r rs hlisted => eq_of_drawnFrom_cons (hlisted ▸ hwrites), ?_⟩
    rw [hexec, setRx_calls, setRx_events, setRx_cfg]
    cases answer <;> rfl

/-! ### The other bus (R229) -/

/-- Settles O56: what the release and the two paths write is of the bus served. -/
theorem dspSvcLeavesTheOtherBusAlone : Obligations.DspSvcLeavesTheOtherBusAlone := by
  intro s t b h
  obtain ⟨frame, s1, s2, htake, hserve, rfl⟩ := (execDspSvc_next_iff b s t).mp h
  obtain ⟨-, rfl, -⟩ := takeFrame_ok b s s1 frame htake
  obtain ⟨d, e, cs, es, rfl, hbus⟩ := serveFrame_ok b frame (s.release b) s2 hserve
  cases b <;> exact ⟨rfl, rfl, rfl, rfl, rfl, rfl, rfl, rfl, es, rfl, hbus⟩

end Sys2Proof.Machine

/-! ## O51: a turn of the dispatch loop -/

namespace Sys2Proof.Machine

/-- With a bit set the services of the mask are owed (44_dispatch.md R221). -/
theorem exec_dspStep_of_signal {s : State} (h : s.rx0.sig = true ∨ s.rx1.sig = true) :
    exec .dspStep s = .next ((s.clearSignals.oweServices s.sigMask).finish .none) := by
  rw [exec, execDspStep, waitSignal_of_signal s h]

/-- With no bit set the free choice decides between the warning and the suspension (R231, log entry 13). -/
theorem exec_dspStep_of_none {s : State} (h0 : s.rx0.sig = false) (h1 : s.rx1.sig = false) :
    ∃ timesOut e,
      exec .dspStep s = .next (if timesOut
        then { s with env := e, ctl := .ready, result := .none, events := s.events ++ [.log .noCommandReceived] }
        else { s with env := e, ctl := .stepping, result := .pending }) ∧
      ∀ x xs, s.env.timeouts = x :: xs → timesOut = x ∧ e = { s.env with timeouts := xs } := by
  obtain ⟨timesOut, e, hwait, hlisted⟩ := waitSignal_of_none s h0 h1
  refine ⟨timesOut, e, ?_, hlisted⟩
  rw [exec, execDspStep, hwait]
  cases timesOut <;> rfl

/-- Settles O51: the services owed are those of the mask, and with no bit set the turn ends as the free choice says. -/
theorem dspStepOwesServicesOrWarns : Obligations.DspStepOwesServicesOrWarns := by
  refine ⟨fun s hsig => ?signalled, fun s h0 h1 => ?none⟩
  case signalled =>
    obtain ⟨todo, e, howe, hnodup, hbus0, hbus1, horder⟩ := oweServices_spec s.clearSignals s.sigMask
    rw [sigMask_bit0] at hbus0
    rw [sigMask_bit1] at hbus1
    refine ⟨todo, e, ?_, hnodup, hbus0, hbus1, fun up us h0 h1 => horder up us ((sigMask_three_iff s).mpr ⟨h0, h1⟩)⟩
    rw [exec_dspStep_of_signal hsig, howe]
    rfl
  case none =>
    obtain ⟨timesOut, e, hexec, hlisted⟩ := exec_dspStep_of_none h0 h1
    refine ⟨⟨e, ?_⟩, fun ts hts => ?_, fun ts hts => ?_⟩
    · cases timesOut with
      | true => exact .inl hexec
      | false => exact .inr hexec
    · obtain ⟨rfl, rfl⟩ := hlisted true ts hts
      exact hexec
    · obtain ⟨rfl, rfl⟩ := hlisted false ts hts
      exact hexec

end Sys2Proof.Machine

/-! ## O8: the context of an operation -/

namespace Sys2Proof.Machine

/-- A request whose instruction its agent may not issue is refused before it is run (60_exceptions.md R262). -/
theorem runRequest_of_wrongContext {a : Agent} {r : Request} {i : Instr} (s : State) (hdecode : decode r = .ok i)
    (hissue : mayIssue a i = false) : runRequest a r s = .refused .wrongContext := by
  simp [runRequest, hdecode, hissue]

theorem step_of_wrongContext {s : State} {a : Agent} {r : Request} {rest : List Request} {ms : List Move} {i : Instr}
    (hsched : s.sched = .agent a :: ms) (hqueue : s.queue a = r :: rest) (hctl : a = .consumer → s.ctl = .ready)
    (hdecode : decode r = .ok i) (hissue : mayIssue a i = false) : step s = .refused .wrongContext :=
  calc step s = runMove (.agent a) (s.withSched ms) := step_of_sched hsched
    _ = runRequest a r ((s.withSched ms).setQueue a rest) := runMove_of_queue ((queue_withSched s a ms).trans hqueue) hctl
    _ = .refused .wrongContext := runRequest_of_wrongContext _ hdecode hissue

theorem mayIssue_rxByte_iff (a : Agent) (b : Bus) (v : U8) : mayIssue a (.rxByte b v) = true ↔ a = .producer b :=
  beq_iff_eq

theorem mayIssue_rxEof_iff (a : Agent) (b : Bus) : mayIssue a (.rxEof b) = true ↔ a = .producer b :=
  beq_iff_eq

/-- Settles O8: the step refuses what `mayIssue` excludes, and `mayIssue` is the table of R262 row by row. -/
theorem wrongContextIsRefused : Obligations.WrongContextIsRefused := by
  refine ⟨fun s a r rest ms i => step_of_wrongContext, mayIssue_rxByte_iff, mayIssue_rxEof_iff, ?consumers, ?pure⟩
  case consumers =>
    intro b c v
    simp only [List.forall_mem_cons]
    exact ⟨⟨rfl, rfl⟩, ⟨rfl, rfl⟩, ⟨rfl, rfl⟩, ⟨rfl, rfl⟩, ⟨rfl, rfl⟩, ⟨rfl, rfl⟩, ⟨rfl, rfl⟩, ⟨rfl, rfl⟩, nofun⟩
  case pure =>
    intro a seed16 seed8 src dst typ cmd addr ack value bytes
    simp only [List.forall_mem_cons]
    exact ⟨rfl, rfl, rfl, rfl, rfl, rfl, rfl, rfl, rfl, nofun⟩

end Sys2Proof.Machine

/-! ## O10: a reset move -/

namespace Sys2Proof.Machine

@[simp] theorem blockReset_ap (s : State) (b : Bus) : (blockReset s).ap b = ApDec.reset := by cases b <;> rfl

@[simp] theorem blockReset_rx (s : State) (b : Bus) : (blockReset s).rx b = RxChan.reset := by cases b <;> rfl

/-- A reset move is never refused and never faults (70_reset_and_hazards.md R280). -/
theorem step_of_reset {s : State} {ms : List Move} (hsched : s.sched = .reset :: ms) :
    step s = .next (blockReset (s.withSched ms)) := step_of_sched hsched

/-- Settles O10: the move is `blockReset`, whose parts are those of `State.resetWith` on either bus. -/
theorem resetMoveResetsTheWholeBlock : Obligations.ResetMoveResetsTheWholeBlock := by
  intro s ms hsched
  refine ⟨blockReset (s.withSched ms), step_of_reset hsched, rfl, rfl, fun b => ⟨?decoder, ?channel⟩⟩
  case decoder => rw [blockReset_ap, resetWith_ap]
  case channel => rw [blockReset_rx, resetWith_rx]

end Sys2Proof.Machine
